-- ==== Sys2Proof/Word.lean ====
section
/-!
DEFINITION. The widths of the unit (00_scope.md R4, 10_state.md R21) and the port: a bundle of lines, each of which
the host drives or leaves undriven (60_exceptions.md R161). Bits are numbered as R6 numbers them: bit 0 is the least
significant.
-/

namespace Sys2Proof

/-- Operation select (R21, `OP_WIDTH` = 3, R5). -/
abbrev OpCode := BitVec 3

/-- A 64-bit block: the data operand `a` and the result `y` (R4, R21). -/
abbrev Block := BitVec 64

/-- The 56-bit key operand `k` (R4, R21). -/
abbrev Key := BitVec 56

/-- A round half: the input and the output of the round function (R4). -/
abbrev Half := BitVec 32

/-- A round subkey, and the input of the S-box bank (R4). -/
abbrev Subkey := BitVec 48

/-- The operation word `W[122:0]` (30_encoding.md R70, R71). -/
abbrev OpWord := BitVec 123

/-- An input port of `n` lines. Line `i` is driven when `driven[i]` is 1, and then carries `value[i]`; a line that is
not driven carries no value (60_exceptions.md R161), and its bit of `value` is never read. -/
structure Port (n : Nat) where
  value : BitVec n
  driven : BitVec n
deriving DecidableEq, Repr

/-- Every line driven, with the value `v`. -/
def Port.drive {n : Nat} (v : BitVec n) : Port n := { value := v, driven := BitVec.allOnes n }

/-- No line driven. -/
def Port.floating (n : Nat) : Port n := { value := 0, driven := 0 }

/-- The port on which the lines of `lines` are driven with `v` and the others are not. An undriven line is held as
0, so that two equal ports are equal data (assumption 2). -/
def Port.driveOnly {n : Nat} (lines v : BitVec n) : Port n := { value := v &&& lines, driven := lines }

/-- The one form a port is held in: an undriven line is held as 0. -/
abbrev Port.Canonical {n : Nat} (p : Port n) : Prop := p.value &&& ~~~p.driven = 0

/-- The lines of `need` that the host does not drive. -/
def Port.missing {n : Nat} (p : Port n) (need : BitVec n) : BitVec n := need &&& ~~~p.driven

end Sys2Proof
end

