-- ==== Sys2Proof/Config.lean ====
section
/-!
DEFINITION. The parameters of the unit (00_scope.md R5). The three table parameters `EBOX`, `PBOX` and `SBOX[1..8]`
are a value of `Tables`, which State holds, so that whatever is stated holds for every instantiation of them; their
default values stand in Machine/Tables.lean. The parameters the spec leaves open are constants without a body.
-/

namespace Sys2Proof

/-- The ten constant tables (10_state.md R23): `EROM` and `PROM` hold positions of 6 bits, `SROM[0..7]` results of
4 bits. -/
structure Tables where
  /-- `EROM[0..47]`, parameter `EBOX` (R24). -/
  erom : Vector (BitVec 6) 48
  /-- `PROM[0..31]`, parameter `PBOX` (R25). -/
  prom : Vector (BitVec 6) 32
  /-- `SROM[j][s]`, parameter `SBOX[j+1]` (R26). -/
  srom : Vector (Vector (BitVec 4) 64) 8
deriving DecidableEq, Repr

/-- A position R7 gives a meaning: 1..32. -/
abbrev isPosition (p : BitVec 6) : Prop := 1 ≤ p.toNat ∧ p.toNat ≤ 32

/-- R23: the entries of `EROM` and `PROM` are values 1..32. -/
abbrev Tables.WF (t : Tables) : Prop :=
  (∀ i : Fin 48, isPosition t.erom[i]) ∧ ∀ i : Fin 32, isPosition t.prom[i]

/-- R25: `PROM` holds no position twice. With `Tables.WF` it holds each of 1..32 exactly once. -/
abbrev Tables.PromOnce (t : Tables) : Prop :=
  ∀ i j : Fin 32, t.prom[i] = t.prom[j] → i = j

/-- FREE VALUE (assumption 4). What a table entry outside 1..32 selects from the word read: R23 gives such an entry
no existence and R7 no meaning. No run from reset reads it. -/
opaque Config.strayBit : Half → BitVec 6 → Bool

/-- OPEN parameter `LATENCY` (R5, 70_reset_and_hazards.md R185): no rule depends on it (assumption 7). -/
opaque Config.latency : Nat

/-- OPEN parameter `HOST_BYTE_ORDER` (R5, 20_memory.md R52), for a block: how a host lays its eight bytes out. It is
outside the unit and no rule depends on it (assumption 9). -/
opaque Config.hostBlockBytes : Block → List (BitVec 8)

/-- OPEN parameter `HOST_BYTE_ORDER` (R52), for a 56-bit key (assumption 9). -/
opaque Config.hostKeyBytes : Key → List (BitVec 8)

end Sys2Proof
end

