-- ==== Sys2Proof/Syntax.lean ====
section
/-!
DEFINITION. The eight operations of 30_encoding.md R72, one constructor per row of the opcode table. An operation's
operands are the values on the ports `a` and `k` (R70, R73), so each constructor carries both, line by line driven or
not (60_exceptions.md R161): the operation names which lines it reads.
-/

namespace Sys2Proof

inductive Instr where
  /-- `op = 0`, 40_primitives.md R101. -/
  | expand (a : Port 64) (k : Port 56)
  /-- `op = 1`, 40_primitives.md R105. -/
  | subst (a : Port 64) (k : Port 56)
  /-- `op = 2`, 40_primitives.md R109. -/
  | permute (a : Port 64) (k : Port 56)
  /-- `op = 3`, 40_primitives.md R112. -/
  | sbox (a : Port 64) (k : Port 56)
  /-- `op = 4`, 41_round_and_cipher.md R131. -/
  | feistel (a : Port 64) (k : Port 56)
  /-- `op = 5`, 41_round_and_cipher.md R133. -/
  | subkey1 (a : Port 64) (k : Port 56)
  /-- `op = 6`, 41_round_and_cipher.md R134. -/
  | subkey2 (a : Port 64) (k : Port 56)
  /-- `op = 7`, 41_round_and_cipher.md R136. -/
  | enc2 (a : Port 64) (k : Port 56)
deriving DecidableEq, Repr

/-- What the instruction's data operand port carries. -/
def Instr.portA : Instr → Port 64
  | .expand a _ | .subst a _ | .permute a _ | .sbox a _ => a
  | .feistel a _ | .subkey1 a _ | .subkey2 a _ | .enc2 a _ => a

/-- What the instruction's key operand port carries. -/
def Instr.portK : Instr → Port 56
  | .expand _ k | .subst _ k | .permute _ k | .sbox _ k => k
  | .feistel _ k | .subkey1 _ k | .subkey2 _ k | .enc2 _ k => k

/-- The instruction's mnemonic, as R72 and the opcode table spell it. -/
def Instr.mnemonic : Instr → String
  | .expand _ _ => "EXPAND"
  | .subst _ _ => "SUBST"
  | .permute _ _ => "PERMUTE"
  | .sbox _ _ => "SBOX"
  | .feistel _ _ => "FEISTEL"
  | .subkey1 _ _ => "SUBKEY1"
  | .subkey2 _ _ => "SUBKEY2"
  | .enc2 _ _ => "ENC2"

end Sys2Proof
end

