-- ==== Sys2Proof/WellFormed.lean ====
section
/-!
DEFINITION. Which instructions have an operation word. R70 makes W of the values on the ports, so an instruction has
one exactly when every line of both operand ports is driven. Every combination of driven values is legal
(30_encoding.md R76): there is no further check. An instruction that is not well formed still has a meaning: it runs
when every line it reads is driven (R74) and is refused otherwise (60_exceptions.md R161).
-/

namespace Sys2Proof

/-- Why an instruction has no operation word. -/
inductive FormError where
  /-- Some line of `a` is undriven. -/
  | undrivenA (lines : BitVec 64)
  /-- Some line of `k` is undriven. -/
  | undrivenK (lines : BitVec 56)
deriving DecidableEq, Repr

/-- The checks, by name. -/
def Instr.formErrors (i : Instr) : List FormError :=
  (if i.portA.driven = BitVec.allOnes 64 then [] else [.undrivenA (~~~i.portA.driven)]) ++
  (if i.portK.driven = BitVec.allOnes 56 then [] else [.undrivenK (~~~i.portK.driven)])

/-- The instruction passes every check. -/
abbrev Instr.WellFormed (i : Instr) : Prop := i.formErrors = []

end Sys2Proof
end

