-- ==== Sys2Proof/Decode.lean ====
section
/-!
DEFINITION. Decoding and encoding (30_encoding.md R70-R73, R76). The decoder is total on operation words and has no
invalid verdict (R76); the only thing it rejects is a number that is no 123-bit word (R71).
-/

namespace Sys2Proof

/-- R72: the operation that `op` selects, on the ports' operands. -/
def decodePorts (op : OpCode) (a : Port 64) (k : Port 56) : Instr :=
  match op.toFin with
  | 0 => .expand a k
  | 1 => .subst a k
  | 2 => .permute a k
  | 3 => .sbox a k
  | 4 => .feistel a k
  | 5 => .subkey1 a k
  | 6 => .subkey2 a k
  | 7 => .enc2 a k

/-- R70: the field `op = W[122:120]`. -/
def wordOp (w : OpWord) : OpCode := w.extractLsb' 120 3

/-- R70: the field `k = W[119:64]`. -/
def wordK (w : OpWord) : Key := w.extractLsb' 64 56

/-- R70: the field `a = W[63:0]`. -/
def wordA (w : OpWord) : Block := w.extractLsb' 0 64

/-- The instruction an operation word stands for: a word drives every line of the ports. -/
def decodeWord (w : OpWord) : Instr :=
  decodePorts (wordOp w) (.drive (wordA w)) (.drive (wordK w))

/-- Why a string of bits is no operation word. -/
inductive DecodeError where
  /-- A bit above `W[122]` is 1: R71 gives every operation word exactly 123 bits. -/
  | longerThanWord
deriving DecidableEq, Repr

/-- Decode the number `w` of `nbits` bits; the bits above `nbits` are 0 (assumption 8). -/
def decodeBits (nbits w : Nat) : Except DecodeError Instr :=
  if w % 2 ^ nbits < 2 ^ 123 then .ok (decodeWord (BitVec.ofNat 123 (w % 2 ^ nbits)))
  else .error .longerThanWord

/-- The instruction the decoder reads from a row's bits, as the opcode table numbers them. -/
def decodeTableWord (nbits w : Nat) : Option Instr :=
  match decodeBits nbits w with
  | .ok i => some i
  | .error _ => none

/-- R72: the operation code of an instruction. -/
def Instr.opcode : Instr → OpCode
  | .expand _ _ => 0
  | .subst _ _ => 1
  | .permute _ _ => 2
  | .sbox _ _ => 3
  | .feistel _ _ => 4
  | .subkey1 _ _ => 5
  | .subkey2 _ _ => 6
  | .enc2 _ _ => 7

/-- R70: `W = op ‖ k ‖ a`, the operation word of a well-formed instruction. -/
def encode (i : Instr) : OpWord := i.opcode ++ i.portK.value ++ i.portA.value

end Sys2Proof
end

