-- ==== Sys2Proof/Machine/State.lean ====
section
/-!
DEFINITION. The state of the machine: the four ports of 10_state.md R21 as the host sees them, and the read-only
constant tables of R23. The unit holds no mutable architectural state (R20): no register, flag, program counter, mode
or memory exists.
-/

namespace Sys2Proof.Machine

/-- What the host sees of one unit. -/
structure State where
  /-- Input port `op` (R21), each line driven by the host or not (60_exceptions.md R161). -/
  op : Port 3
  /-- Input port `a` (R21, R161). -/
  a : Port 64
  /-- Input port `k` (R21, R161). -/
  k : Port 56
  /-- Output port `y` (R21), as the host read it at the end of the last completed evaluation (70_reset_and_hazards.md
  R183). Before an evaluation has completed a read of `y` gives no architectural value (R186): `none`
  (assumption 1). -/
  y : Option Block
  /-- The constant tables, which no operation writes (R23). -/
  tables : Tables
deriving DecidableEq, Repr

/-- Why the machine stops with a fault. It never does: the unit raises no exception (60_exceptions.md R160), so the
type has no constructor. -/
inductive Fault where
deriving DecidableEq, Repr

/-- Why an evaluation has no result. -/
inductive Refusal where
  /-- An arm of `exec` that has no meaning yet. No arm of this model raises it. Safe. -/
  | notModelled (mnemonic : String)
  /-- Raised by `step`: a line of `op` is undriven (60_exceptions.md R161), so that no operation is selected; `lines`
  are the undriven lines of `op`. Safe: the hardware produces some value, the model none (92_eei_decisions.md D13). -/
  | undrivenOp (lines : BitVec 3)
  /-- Raised by every operation: R161's `UndrivenInput(op, which bits)`. `aLines` and `kLines` are the bits of `a` and
  `k` that the operation reads and the host does not drive. Safe: as above. -/
  | undrivenInput (op : OpCode) (aLines : BitVec 64) (kLines : BitVec 56)
deriving DecidableEq, Repr

/-- Right after reset (R29): the tables are the default constants; the input ports are not reset by the unit, and
nothing drives them yet (assumption 2); no evaluation has completed (assumption 1). -/
def State.reset : State where
  op := .floating 3
  a := .floating 64
  k := .floating 56
  y := none
  tables := fipsTables

end Sys2Proof.Machine
end

