-- ==== Sys2Proof/Machine/Flags.lean ====
section
/-!
DEFINITION. Flags. The unit has no status flags or condition codes (10_state.md R20), and every operation rule of
40_primitives.md and 41_round_and_cipher.md says "Flags written: none": the type of flags is empty and every
operation writes none.
-/

namespace Sys2Proof.Machine

/-- The unit's flags: none (R20). -/
inductive Flag where
deriving DecidableEq, Repr

/-- The flags an operation writes: none (R101, R105, R109, R112, R131, R133, R134, R136). -/
def flagsWritten (_ : Instr) : List Flag := []

end Sys2Proof.Machine
end

