-- ==== Sys2Proof/Machine/Operands.lean ====
section
/-!
DEFINITION. Which port bits each operation reads (30_encoding.md R72, R73), how a table of positions selects the bits
of a word (00_scope.md R7), how the S-box bank's input splits into chunks (40_primitives.md R103), and how the S-box
ROM is read (40_primitives.md R106, R112).
-/

namespace Sys2Proof.Machine

/-- The bits of `a` and `k` that an operation reads, as masks. -/
structure Reads where
  a : BitVec 64
  k : BitVec 56
deriving DecidableEq, Repr

/-- R72, column "reads": `reads(op)` of 60_exceptions.md R161. -/
def reads (op : OpCode) : Reads :=
  match op.toFin with
  | 0 => { a := 0x00000000FFFFFFFF, k := 0 }
  | 1 => { a := 0x0000FFFFFFFFFFFF, k := 0 }
  | 2 => { a := 0x00000000FFFFFFFF, k := 0 }
  | 3 => { a := 0x00000000000001FF, k := 0 }
  | 4 => { a := 0x00000000FFFFFFFF, k := 0x00FFFFFFFFFFFF }
  | 5 => { a := 0, k := 0x00FFFFFFFFFFFF }
  | 6 => { a := 0, k := 0xFFFFFFFFFFFF00 }
  | 7 => { a := 0xFFFFFFFFFFFFFFFF, k := 0xFFFFFFFFFFFFFF }

/-- R7: the bit that position `p` names, 1 being the most significant: bit `32 - p` of a 32-bit word. An entry
outside 1..32 names none: a free value (assumption 4). -/
def positionBit (x : Half) (p : BitVec 6) : Bool :=
  if isPosition p then x.getLsbD (32 - p.toNat) else Config.strayBit x p

/-- R7: the word a table of `m` positions selects from `x`: output bit `m-1-i` takes the input bit that entry `i`
names. -/
def selectBits {m : Nat} (table : Vector (BitVec 6) m) (x : Half) : BitVec m :=
  BitVec.ofFnBE fun i : Fin m => positionBit x table[i]

/-- R103: chunk `i` (1..8) of an S-box-bank input, `S[53 - 6i : 48 - 6i]`. -/
def chunk (i : Nat) (s : Subkey) : BitVec 6 := s.extractLsb' (48 - 6 * i) 6

/-- R106: `sbox(i, s) = SROM[i-1][s]`. The box is given by `j = i - 1`, so that no index outside 1..8 exists
(60_exceptions.md R162). -/
def sbox (t : Tables) (j : BitVec 3) (s : BitVec 6) : BitVec 4 :=
  (t.srom[j.toNat]'j.isLt)[s.toNat]'s.isLt

/-- 20_memory.md R50: the S-box bank as a 9-bit read-only index space, address `j ‖ s`. -/
def romRead (t : Tables) (address : BitVec 9) : BitVec 4 :=
  sbox t (address.extractLsb' 6 3) (address.extractLsb' 0 6)

/-- 20_memory.md R51: the high half of a block, `block[63:32]`. -/
def highHalf (b : Block) : Half := b.extractLsb' 32 32

/-- 20_memory.md R51: the low half of a block, `block[31:0]`. -/
def lowHalf (b : Block) : Half := b.extractLsb' 0 32

end Sys2Proof.Machine
end

