-- ==== Sys2Proof/Machine/Ops.lean ====
section
/-!
DEFINITION. The named operations over State: the host drives the input ports, the unit evaluates and drives `y`
(70_reset_and_hazards.md R183), and the refusal of undriven inputs (60_exceptions.md R161). There is no memory
(20_memory.md R50), no register file (10_state.md R20) and no exception to take or return from (60_exceptions.md
R160, R165), so no operation over them exists.
-/

namespace Sys2Proof.Machine

/-- R183 step 1: the host drives the input ports. -/
def State.present (s : State) (op : Port 3) (a : Port 64) (k : Port 56) : State :=
  { s with op := op, a := a, k := k }

/-- R9 `y <- v`: the unit drives the output port; no other piece of State changes (20_memory.md R55). -/
def State.putY (s : State) (v : Block) : State := { s with y := some v }

/-- 70_reset_and_hazards.md R180, R186: a reset signal, if one is wired, has no effect. -/
def State.assertReset (s : State) : State := s

/-- 30_encoding.md R75: a result of `w` bits, zero-extended to the 64 bits of `y`. -/
def result {w : Nat} (v : BitVec w) : Block := v.setWidth 64

/-- R161: the bits that the operation `op` reads and that the host does not drive. -/
def undriven (op : OpCode) (a : Port 64) (k : Port 56) : Reads :=
  { a := a.missing (reads op).a, k := k.missing (reads op).k }

/-- R161 `evaluate(op, a, k)`: refused if a bit that `op` reads is undriven, else `y` takes the result `v`. -/
def evaluate (op : OpCode) (a : Port 64) (k : Port 56) (v : Block) (s : State) :
    Host.Outcome State Fault Refusal :=
  let m := undriven op a k
  if m.a = 0 ∧ m.k = 0 then .next (s.putY v) else .refused (.undrivenInput op m.a m.k)

/-- R161: the lines of `op` that the host does not drive. -/
def State.opMissing (s : State) : BitVec 3 := s.op.missing (BitVec.allOnes 3)

end Sys2Proof.Machine
end

