-- ==== Sys2Proof/Machine/Primitives.lean ====
section
/-!
DEFINITION. The primitives of 40_primitives.md and the operations EXPAND, SUBST, PERMUTE and SBOX.
-/

namespace Sys2Proof.Machine

/-- R100: the E-box. -/
def expand (t : Tables) (r : Half) : Subkey := selectBits t.erom r

/-- R104: the S-box bank: chunk `i` goes through S-box `i`, and the eight results are concatenated in chunk order. -/
def substitute (t : Tables) (s : Subkey) : Half :=
  sbox t 0 (chunk 1 s) ++ sbox t 1 (chunk 2 s) ++ sbox t 2 (chunk 3 s) ++ sbox t 3 (chunk 4 s) ++
  sbox t 4 (chunk 5 s) ++ sbox t 5 (chunk 6 s) ++ sbox t 6 (chunk 7 s) ++ sbox t 7 (chunk 8 s)

/-- R108: the P-box. -/
def permute (t : Tables) (o : Half) : Half := selectBits t.prom o

/-- R101: `zext_64(expand(in.a[31:0]))`. -/
def valueExpand (t : Tables) (a : Block) : Block := result (expand t (a.extractLsb' 0 32))

/-- R105: `zext_64(substitute(in.a[47:0]))`. -/
def valueSubst (t : Tables) (a : Block) : Block := result (substitute t (a.extractLsb' 0 48))

/-- R109: `zext_64(permute(in.a[31:0]))`. -/
def valuePermute (t : Tables) (a : Block) : Block := result (permute t (a.extractLsb' 0 32))

/-- R112: `zext_64(SROM[in.a[8:6]][in.a[5:0]])`. -/
def valueSbox (t : Tables) (a : Block) : Block := result (romRead t (a.extractLsb' 0 9))

/-- R101: EXPAND. -/
def execExpand (a : Port 64) (k : Port 56) (s : State) : Host.Outcome State Fault Refusal :=
  evaluate 0 a k (valueExpand s.tables a.value) s

/-- R105: SUBST. -/
def execSubst (a : Port 64) (k : Port 56) (s : State) : Host.Outcome State Fault Refusal :=
  evaluate 1 a k (valueSubst s.tables a.value) s

/-- R109: PERMUTE. -/
def execPermute (a : Port 64) (k : Port 56) (s : State) : Host.Outcome State Fault Refusal :=
  evaluate 2 a k (valuePermute s.tables a.value) s

/-- R112: SBOX. -/
def execSbox (a : Port 64) (k : Port 56) (s : State) : Host.Outcome State Fault Refusal :=
  evaluate 3 a k (valueSbox s.tables a.value) s

end Sys2Proof.Machine
end

