-- ==== Sys2Proof/Machine/Round.lean ====
section
/-!
DEFINITION. The round function, the subkey derivation and the 2-round cipher of 41_round_and_cipher.md, and the
operations FEISTEL, SUBKEY1, SUBKEY2 and ENC2. The post-P-box XOR and the byte-shifted second subkey are normative
(R137); nothing is added to the cipher (R138).
-/

namespace Sys2Proof.Machine

/-- R130: E-box, subkey XOR, S-box bank, P-box, and the XOR with the low 32 bits of the subkey. -/
def feistel (t : Tables) (r : Half) (k : Subkey) : Half :=
  permute t (substitute t (expand t r ^^^ k)) ^^^ k.extractLsb' 0 32

/-- R132: `K1 = K[47:0]`. -/
def subkey1 (k : Key) : Subkey := k.extractLsb' 0 48

/-- R132: `K2 = K[55:8]`. -/
def subkey2 (k : Key) : Subkey := k.extractLsb' 8 48

/-- R135: two rounds with the halves swapped after each; the output is `L2 ‖ R2`. -/
def encryptTwoRound (t : Tables) (k : Key) (p : Block) : Block :=
  let l0 := highHalf p
  let r0 := lowHalf p
  let l1 := r0
  let r1 := l0 ^^^ feistel t r0 (subkey1 k)
  let l2 := r1
  let r2 := l1 ^^^ feistel t r1 (subkey2 k)
  l2 ++ r2

/-- R131: `zext_64(feistel(in.a[31:0], in.k[47:0]))`. -/
def valueFeistel (t : Tables) (a : Block) (k : Key) : Block :=
  result (feistel t (a.extractLsb' 0 32) (k.extractLsb' 0 48))

/-- R133: `zext_64(subkey1(in.k))`. -/
def valueSubkey1 (k : Key) : Block := result (subkey1 k)

/-- R134: `zext_64(subkey2(in.k))`. -/
def valueSubkey2 (k : Key) : Block := result (subkey2 k)

/-- R136: `encryptTwoRound(in.k[55:0], in.a[63:0])`. -/
def valueEnc2 (t : Tables) (a : Block) (k : Key) : Block := encryptTwoRound t k a

/-- R131: FEISTEL. -/
def execFeistel (a : Port 64) (k : Port 56) (s : State) : Host.Outcome State Fault Refusal :=
  evaluate 4 a k (valueFeistel s.tables a.value k.value) s

/-- R133: SUBKEY1. -/
def execSubkey1 (a : Port 64) (k : Port 56) (s : State) : Host.Outcome State Fault Refusal :=
  evaluate 5 a k (valueSubkey1 k.value) s

/-- R134: SUBKEY2. -/
def execSubkey2 (a : Port 64) (k : Port 56) (s : State) : Host.Outcome State Fault Refusal :=
  evaluate 6 a k (valueSubkey2 k.value) s

/-- R136: ENC2. -/
def execEnc2 (a : Port 64) (k : Port 56) (s : State) : Host.Outcome State Fault Refusal :=
  evaluate 7 a k (valueEnc2 s.tables a.value k.value) s

/-- 00_scope.md section 5: `eval : Op → BitVec 64 → BitVec 56 → BitVec 64`, configured by the tables. It is total
(R10): the value the unit puts on `y` for the input values `op`, `a`, `k`. -/
def eval (t : Tables) (op : OpCode) (a : Block) (k : Key) : Block :=
  match op.toFin with
  | 0 => valueExpand t a
  | 1 => valueSubst t a
  | 2 => valuePermute t a
  | 3 => valueSbox t a
  | 4 => valueFeistel t a k
  | 5 => valueSubkey1 k
  | 6 => valueSubkey2 k
  | 7 => valueEnc2 t a k

/-- 10_state.md R22, R29: what the combinational output `y` is for the current inputs: `eval(op, a, k)`, or nothing
while a line that the selected operation reads is undriven (60_exceptions.md R161). -/
def State.outputNet (s : State) : Option Block :=
  let m := undriven s.op.value s.a s.k
  if s.opMissing = 0 ∧ m.a = 0 ∧ m.k = 0 then some (eval s.tables s.op.value s.a.value s.k.value) else none

end Sys2Proof.Machine
end

