-- ==== Sys2Proof/Machine/Dispatch.lean ====
section
/-!
DEFINITION. One arm per operation of 30_encoding.md R72.
-/

namespace Sys2Proof.Machine

def exec (i : Instr) (s : State) : Host.Outcome State Fault Refusal :=
  match i with
  | .expand a k => Sys2Proof.Machine.execExpand a k s
  | .subst a k => Sys2Proof.Machine.execSubst a k s
  | .permute a k => Sys2Proof.Machine.execPermute a k s
  | .sbox a k => Sys2Proof.Machine.execSbox a k s
  | .feistel a k => Sys2Proof.Machine.execFeistel a k s
  | .subkey1 a k => Sys2Proof.Machine.execSubkey1 a k s
  | .subkey2 a k => Sys2Proof.Machine.execSubkey2 a k s
  | .enc2 a k => Sys2Proof.Machine.execEnc2 a k s

end Sys2Proof.Machine
end

