-- ==== Sys2Proof/Machine/Step.lean ====
section
/-!
DEFINITION. One step is one evaluation (70_reset_and_hazards.md R183) of the inputs the host drives. The unit fetches
nothing (20_memory.md R51, R61): the operation and its operands are the values on the input ports (assumption 5).
-/

namespace Sys2Proof.Machine

/-- R161, R183: refused while a line of `op` is undriven; else the selected operation runs on the operand ports. -/
def step (s : State) : Host.Outcome State Fault Refusal :=
  if s.opMissing = 0 then exec (decodePorts s.op.value s.a s.k) s
  else .refused (.undrivenOp s.opMissing)

/-- The host drives the input ports with the fields of an operation word (30_encoding.md R70). -/
def State.presentWord (s : State) (w : OpWord) : State :=
  s.present (.drive (wordOp w)) (.drive (wordA w)) (.drive (wordK w))

/-- `s` with the word `w` of `nbits` bits (those above are 0) on the input ports, which is where a step takes its
operation from (assumption 5). DESIGN CHOICE (assumption 8), unsafe: a bit of the number above `W[122]` has no line to
drive (R71) and is dropped, so that a step then runs the low 123 bits, while `decodeBits` rejects such a number. -/
def State.withFetchWord (s : State) (nbits w : Nat) : State :=
  s.presentWord (BitVec.ofNat 123 (w % 2 ^ nbits))

end Sys2Proof.Machine
end

