-- ==== Sys2Proof/Machine/Assembler.lean ====
section
/-!
DEFINITION. The assembler notation of 30_encoding.md R77 and the pseudo-operations of R78. It is host-side notation:
a line stands for one operation word.
-/

namespace Sys2Proof.Machine

/-- A line of source: one operation with its two operands (R77), or a pseudo-operation (R78). -/
inductive SourceLine where
  /-- `<MNEMONIC> a=<hex>, k=<hex>`, an omitted operand being 0. -/
  | operation (op : OpCode) (a k : Nat)
  /-- `SBOX<n> s`. -/
  | sboxN (n s : Nat)
  /-- `ROUNDF r, K`. -/
  | roundf (r key : Nat)
  /-- `ENCRYPT p, K`. -/
  | encrypt (p key : Nat)
deriving DecidableEq, Repr

/-- Why a line has no operation word. -/
inductive AsmError where
  /-- R77: a value is wider than its port. -/
  | valueTooWide
  /-- R78: an operand of a pseudo-operation lies outside its range. -/
  | outOfRange
  /-- R72: no operation and no pseudo-operation has this name. -/
  | unknownMnemonic
  /-- The line is not of R77's or R78's form. -/
  | badForm
deriving DecidableEq, Repr

/-- R78: what a line expands to: the operation code and the operand values. -/
def SourceLine.expansion : SourceLine → Except AsmError (OpCode × Nat × Nat)
  | .operation op a k => .ok (op, a, k)
  | .sboxN n s =>
    if 1 ≤ n ∧ n ≤ 8 ∧ s ≤ 0x3F then .ok (3, ((n - 1) <<< 6) ||| s, 0) else .error .outOfRange
  | .roundf r key => if key < 2 ^ 48 then .ok (4, r, key) else .error .outOfRange
  | .encrypt p key => .ok (7, p, key)

/-- R77: `W = (op << 120) | (k << 64) | a`, each value checked against its port. -/
def assemble (line : SourceLine) : Except AsmError OpWord :=
  match line.expansion with
  | .ok (op, a, k) =>
    if a < 2 ^ 64 ∧ k < 2 ^ 56 then .ok (BitVec.ofNat 123 ((op.toNat <<< 120) ||| (k <<< 64) ||| a))
    else .error .valueTooWide
  | .error e => .error e

/-! The text of a line (assumption 13). -/

/-- A blank. -/
def isBlank (c : Char) : Bool := c == ' ' || c == '\t'

/-- The text without the blanks at its two ends. -/
def trim (cs : List Char) : List Char := ((cs.dropWhile isBlank).reverse.dropWhile isBlank).reverse

/-- The text up to a comment, which a semicolon starts (R77). -/
def beforeComment (cs : List Char) : List Char := cs.takeWhile (· != ';')

/-- The parts of a text between its commas. -/
def commaParts : List Char → List (List Char)
  | [] => [[]]
  | c :: cs =>
    if c == ',' then [] :: commaParts cs
    else
      match commaParts cs with
      | [] => [[c]]
      | p :: ps => (c :: p) :: ps

/-- The ways to write each of the sixteen digits of R77's values, in the order of the digits' values; a letter is
written in either case (assumption 13). -/
def digitSpellings : List (List Char) :=
  [['0'], ['1'], ['2'], ['3'], ['4'], ['5'], ['6'], ['7'], ['8'], ['9']] ++
  [['A', 'a'], ['B', 'b'], ['C', 'c'], ['D', 'd'], ['E', 'e'], ['F', 'f']]

/-- The value of a hexadecimal digit: its place among the sixteen. -/
def hexDigit (c : Char) : Option Nat := digitSpellings.findIdx? fun spellings => spellings.contains c

/-- The value of hexadecimal digits read after the value `n`. -/
def hexDigits : Nat → List Char → Option Nat
  | n, [] => some n
  | n, c :: cs =>
    match hexDigit c with
    | some d => hexDigits (16 * n + d) cs
    | none => none

/-- R77: a hexadecimal value with its `0x` prefix. -/
def hexValue : List Char → Option Nat
  | '0' :: 'x' :: d :: ds => hexDigits 0 (d :: ds)
  | _ => none

/-- R77: the value of the operand `<port>=<hex>`. -/
def portOperand (port : Char) : List Char → Option Nat
  | c :: '=' :: ds => if c == port then hexValue ds else none
  | _ => none

/-- R77: the operands of an operation, `a=` before `k=`; an omitted one is 0. -/
def portOperands : List (List Char) → Option (Nat × Nat)
  | [[]] => some (0, 0)
  | [x] =>
    match portOperand 'a' x, portOperand 'k' x with
    | some a, _ => some (a, 0)
    | none, some k => some (0, k)
    | none, none => none
  | [x, y] =>
    match portOperand 'a' x, portOperand 'k' y with
    | some a, some k => some (a, k)
    | _, _ => none
  | _ => none

/-- R72: the mnemonic of an operation code. -/
def mnemonicOf (op : OpCode) : List Char := (decodePorts op (.floating 64) (.floating 56)).mnemonic.toList

/-- R72: the operation code of a mnemonic. -/
def opcodeOf (name : List Char) : Option OpCode :=
  [0, 1, 2, 3, 4, 5, 6, 7].find? fun op => mnemonicOf op == name

/-- R78: the number `n` of a pseudo-operation name `SBOX<n>`. -/
def sboxNumber : List Char → Option Nat
  | ['S', 'B', 'O', 'X', d] => (hexDigit d).filter fun n => decide (1 ≤ n ∧ n ≤ 8)
  | _ => none

/-- R78: the two values of a pseudo-operation. -/
def twoValues : List (List Char) → Option (Nat × Nat)
  | [x, y] =>
    match hexValue x, hexValue y with
    | some a, some b => some (a, b)
    | _, _ => none
  | _ => none

/-- R78: the one value of a pseudo-operation. -/
def oneValue : List (List Char) → Option Nat
  | [x] => hexValue x
  | _ => none

/-- The line that a name and its comma-separated operands stand for. -/
def lineOf (name : List Char) (operands : List (List Char)) : Except AsmError SourceLine :=
  match opcodeOf name, sboxNumber name with
  | some op, _ =>
    match portOperands operands with
    | some (a, k) => .ok (.operation op a k)
    | none => .error .badForm
  | none, some n =>
    match oneValue operands with
    | some s => .ok (.sboxN n s)
    | none => .error .badForm
  | none, none =>
    if name == ['R', 'O', 'U', 'N', 'D', 'F'] then
      match twoValues operands with
      | some (r, key) => .ok (.roundf r key)
      | none => .error .badForm
    else if name == ['E', 'N', 'C', 'R', 'Y', 'P', 'T'] then
      match twoValues operands with
      | some (p, key) => .ok (.encrypt p key)
      | none => .error .badForm
    else .error .unknownMnemonic

/-- R77: one operation per line; a line with nothing before its comment holds none. -/
def parseLine (text : List Char) : Except AsmError (Option SourceLine) :=
  let body := trim (beforeComment text)
  if body.isEmpty then .ok none
  else
    match lineOf (body.takeWhile fun c => !isBlank c)
        ((commaParts (body.dropWhile fun c => !isBlank c)).map trim) with
    | .ok line => .ok (some line)
    | .error e => .error e

/-- The operation words of a text given line by line. -/
def assembleText : List (List Char) → Except AsmError (List OpWord)
  | [] => .ok []
  | l :: ls =>
    match parseLine l, assembleText ls with
    | .ok none, .ok ws => .ok ws
    | .ok (some line), .ok ws =>
      match assemble line with
      | .ok w => .ok (w :: ws)
      | .error e => .error e
    | .error e, _ => .error e
    | _, .error e => .error e

end Sys2Proof.Machine
end

