-- ==== Sys2Proof/Machine/HostMove.lean ====
section
/-!
DEFINITION. What a host can do to a unit (70_reset_and_hazards.md R186) and what it sees of a run (R187).
-/

namespace Sys2Proof.Machine

/-- R186, one constructor per row that is a move. Reading `y` without an evaluation is no move. -/
inductive HostMove where
  /-- Drive `op`, `a` and `k`, hold them, and read `y` (R183). -/
  | evaluate (op : Port 3) (a : Port 64) (k : Port 56)
  /-- Assert a reset signal, if one is wired (R180). -/
  | reset
deriving DecidableEq, Repr

/-- R183: steps 1 to 4 of an evaluation are one atomic step of the host. -/
def hostMove (m : HostMove) (s : State) : Host.Outcome State Fault Refusal :=
  match m with
  | .evaluate op a k => step (s.present op a k)
  | .reset => .next s.assertReset

/-- The moves of a run, in order, up to the first refusal. -/
def runMoves : List HostMove → State → Host.Outcome State Fault Refusal
  | [], s => .next s
  | m :: ms, s =>
    match hostMove m s with
    | .next s' => runMoves ms s'
    | .refused r => .refused r

/-- What the host gets back from a move that left the unit in `s` (R186, last column). -/
def readBack (m : HostMove) (s : State) : List Block :=
  match m with
  | .evaluate _ _ _ => s.y.toList
  | .reset => []

/-- R187: the observation of a finite run is the sequence of its `y` values; a run with a refused evaluation has none,
and the refusal is kept (60_exceptions.md R161). -/
def observe : List HostMove → State → Except Refusal (List Block)
  | [], _ => .ok []
  | m :: ms, s =>
    match hostMove m s with
    | .next s' =>
      match observe ms s' with
      | .ok ys => .ok (readBack m s' ++ ys)
      | .error r => .error r
    | .refused r => .error r

end Sys2Proof.Machine
end

