-- ==== Sys2Proof/Machine/HostProgram.lean ====
section
/-!
DEFINITION. Host programs (30_encoding.md R79): sequences of operations and host statements over named values, run by
the host outside the unit, and the observation of such a run (70_reset_and_hazards.md R187). Assumption 14 says what
the model fixes where R79 is silent.
-/

namespace Sys2Proof.Machine

/-- R79: host arithmetic on named values. -/
inductive HostExpr where
  | value (v : Block)
  | named (name : String)
  /-- `x ^ y`. -/
  | xor (x y : HostExpr)
  /-- `x & MASK_n`. -/
  | mask (x : HostExpr) (n : Nat)
  /-- `x >> n`. -/
  | shiftRight (x : HostExpr) (n : Nat)
  /-- `(x << 32) | y`. -/
  | join (x y : HostExpr)
deriving DecidableEq, Repr

/-- R79: host statements. -/
inductive HostStmt where
  /-- `v := <operation line>`: evaluate and name its `y`. The lines of `aFloat` and `kFloat` are left undriven (the
  refusal vectors of 95_test_vectors.md); a written operation line leaves none. -/
  | operation (v : String) (op : OpCode) (a k : HostExpr) (aFloat : BitVec 64) (kFloat : BitVec 56)
  /-- `v := <host arithmetic>`. -/
  | compute (v : String) (e : HostExpr)
  /-- `check x == y`, and with `equal` false `check x != y`. -/
  | check (x y : HostExpr) (equal : Bool)
deriving DecidableEq, Repr

/-- Why a host program ends early. -/
inductive HostStop where
  /-- An evaluation was refused: the run has no final observation (R187). -/
  | refused (r : Refusal)
  /-- An expression uses a name that no statement has named. -/
  | unknownName (name : String)
  /-- R77: a value is wider than its port. -/
  | valueTooWide
  /-- An assertion does not hold. -/
  | checkFailed
deriving DecidableEq, Repr

/-- A host program under way: the unit, the named values in the order last named (assumption 14), and the `y` values
so far. -/
structure HostRun where
  unit : State
  names : List (String × Block)
  ys : List Block
deriving DecidableEq, Repr

/-- The named values after `v` names `x`. DESIGN CHOICE (assumption 14): `v` goes to the end of the list, and leaves the
place it had if it was named before; R187 gives the named values no order. -/
def nameValue (v : String) (x : Block) (names : List (String × Block)) : List (String × Block) :=
  names.filter (fun p => p.1 != v) ++ [(v, x)]

/-- R79, R8: the value of an expression, truncated to 64 bits. -/
def hostValue (names : List (String × Block)) : HostExpr → Except HostStop Block
  | .value v => .ok v
  | .named n =>
    match names.lookup n with
    | some v => .ok v
    | none => .error (.unknownName n)
  | .xor x y =>
    match hostValue names x, hostValue names y with
    | .ok u, .ok v => .ok (u ^^^ v)
    | .error e, _ => .error e
    | _, .error e => .error e
  | .mask x n =>
    match hostValue names x with
    | .ok u => .ok (u &&& BitVec.ofNat 64 (2 ^ n - 1))
    | .error e => .error e
  | .shiftRight x n =>
    match hostValue names x with
    | .ok u => .ok (u >>> n)
    | .error e => .error e
  | .join x y =>
    match hostValue names x, hostValue names y with
    | .ok u, .ok v => .ok ((u <<< 32) ||| v)
    | .error e, _ => .error e
    | _, .error e => .error e

/-- The host evaluates an operation and names its `y`. -/
def runOperation (v : String) (m : HostMove) (r : HostRun) : Except HostStop HostRun :=
  match hostMove m r.unit with
  | .next s =>
    .ok { unit := s
          names := (readBack m s).foldl (fun ns y => nameValue v y ns) r.names
          ys := r.ys ++ readBack m s }
  | .refused e => .error (.refused e)

/-- R79: one statement. -/
def runStmt (st : HostStmt) (r : HostRun) : Except HostStop HostRun :=
  match st with
  | .operation v op a k aFloat kFloat =>
    match hostValue r.names a, hostValue r.names k with
    | .ok x, .ok y =>
      if y.toNat < 2 ^ 56 then
        runOperation v
          (.evaluate (.drive op) (.driveOnly (~~~aFloat) x) (.driveOnly (~~~kFloat) (y.setWidth 56))) r
      else .error .valueTooWide
    | .error e, _ => .error e
    | _, .error e => .error e
  | .compute v e =>
    match hostValue r.names e with
    | .ok x => .ok { r with names := nameValue v x r.names }
    | .error e => .error e
  | .check x y equal =>
    match hostValue r.names x, hostValue r.names y with
    | .ok u, .ok v => if decide (u = v) = equal then .ok r else .error .checkFailed
    | .error e, _ => .error e
    | _, .error e => .error e

/-- R187: the statements in order; the run ends when the last one has executed. -/
def runProgram : List HostStmt → HostRun → Except HostStop HostRun
  | [], r => .ok r
  | st :: sts, r =>
    match runStmt st r with
    | .ok r' => runProgram sts r'
    | .error e => .error e

/-- R187: the observation of a host program on a unit: its `y` values and its named values. -/
def programObservation (p : List HostStmt) (s : State) :
    Except HostStop (List Block × List (String × Block)) :=
  match runProgram p { unit := s, names := [], ys := [] } with
  | .ok r => .ok (r.ys, r.names)
  | .error e => .error e

end Sys2Proof.Machine
end

