-- ==== Sys2Proof/Machine/System.lean ====
section
/-!
DEFINITION. Several units (10_state.md R31, 60_exceptions.md R170): any number of them, with no shared state and no
signal between them. `INSTANCES` (00_scope.md R5) is the length of the vector.
-/

namespace Sys2Proof.Machine

/-- `n` independent units. -/
abbrev System (n : Nat) := Vector State n

/-- A host move on unit `i`; no other unit takes part (R31). DESIGN CHOICE (assumption 18), safe: where the move is
refused the whole system has no next state, so that one unit's refusal ends the run of all. R161 keeps a refusal 'for
the whole run' and R187 denies such a run an observation, but neither says whether a run of several units is one
run. -/
def systemMove {n : Nat} (i : Fin n) (m : HostMove) (sys : System n) :
    Host.Outcome (System n) Fault Refusal :=
  match hostMove m sys[i] with
  | .next s' => .next (sys.set i s')
  | .refused r => .refused r

/-- Moves on units, one after another in the order of the list, up to the first refusal (assumption 18). -/
def runSystem {n : Nat} : List (Fin n × HostMove) → System n → Host.Outcome (System n) Fault Refusal
  | [], sys => .next sys
  | (i, m) :: ms, sys =>
    match systemMove i m sys with
    | .next sys' => runSystem ms sys'
    | .refused r => .refused r

/-- R31 'both may evaluate at the same time': every unit makes its own move, or none, and all of them at once. Each
unit has an outcome of its own, which no other unit's move or refusal enters. -/
def simultaneousMoves {n : Nat} (moves : Vector (Option HostMove) n) (sys : System n) :
    Vector (Host.Outcome State Fault Refusal) n :=
  Vector.ofFn fun i =>
    match moves[i] with
    | some m => hostMove m sys[i]
    | none => .next sys[i]

end Sys2Proof.Machine
end

