-- ==== Sys2Proof/Safety.lean ====
section
/-!
DEFINITION. The terms the statements use: which lines of a port are driven, the invariant of the machine, and the laws
of 41_round_and_cipher.md section 3 as functions and propositions.
-/

namespace Sys2Proof.Machine

/-- Every line `p[hi:lo]` is driven. -/
def linesDriven {n : Nat} (p : Port n) (hi lo : Nat) : Prop :=
  ∀ i, lo ≤ i → i ≤ hi → p.driven.getLsbD i = true

/-- Two ports agree on the lines of `mask`: each is driven in both or in neither, and carries the same value. -/
def agreeOn {n : Nat} (mask : BitVec n) (p q : Port n) : Prop :=
  ∀ i, mask.getLsbD i = true →
    p.driven.getLsbD i = q.driven.getLsbD i ∧ p.value.getLsbD i = q.value.getLsbD i

/-- 30_encoding.md R72, column "result width". -/
def resultWidth (op : OpCode) : Nat :=
  match op.toFin with
  | 0 => 48
  | 1 => 32
  | 2 => 32
  | 3 => 4
  | 4 => 32
  | 5 => 48
  | 6 => 48
  | 7 => 64

/-- What each operation computes, at its own width, before R75 zero-extends it: the column "computes" of R72. -/
def operationValue (t : Tables) (i : Instr) : (w : Nat) × BitVec w :=
  match i with
  | .expand a _ => ⟨48, expand t (a.value.extractLsb' 0 32)⟩
  | .subst a _ => ⟨32, substitute t (a.value.extractLsb' 0 48)⟩
  | .permute a _ => ⟨32, permute t (a.value.extractLsb' 0 32)⟩
  | .sbox a _ => ⟨4, sbox t (a.value.extractLsb' 6 3) (a.value.extractLsb' 0 6)⟩
  | .feistel a k => ⟨32, feistel t (a.value.extractLsb' 0 32) (k.value.extractLsb' 0 48)⟩
  | .subkey1 _ k => ⟨48, subkey1 k.value⟩
  | .subkey2 _ k => ⟨48, subkey2 k.value⟩
  | .enc2 a k => ⟨64, encryptTwoRound t k.value a.value⟩

/-- The invariant of the machine. The tables' entries are positions (10_state.md R23) and `PROM` repeats none (R25);
each port is held in its one form (assumption 2); and `y`, where an evaluation has completed, is `eval` of the inputs
as they stand (10_state.md R22, R29). -/
structure Inv (s : State) : Prop where
  positions : s.tables.WF
  promOnce : s.tables.PromOnce
  opForm : s.op.Canonical
  aForm : s.a.Canonical
  kForm : s.k.Canonical
  output : s.y = none ∨ s.y = s.outputNet

/-- 41_round_and_cipher.md R135 with any round function `f` in place of `feistel`. -/
def encryptWith (f : Half → Subkey → Half) (k : Key) (p : Block) : Block :=
  let r1 := highHalf p ^^^ f (lowHalf p) (subkey1 k)
  r1 ++ (lowHalf p ^^^ f r1 (subkey2 k))

/-- 41_round_and_cipher.md R139: the recurrence that recovers `P` from `C = L2 ‖ R2`. The unit has no operation for
it. -/
def recover (f : Half → Subkey → Half) (k : Key) (c : Block) : Block :=
  let r1 := highHalf c
  let l1 := lowHalf c ^^^ f r1 (subkey2 k)
  let r0 := l1
  let l0 := r1 ^^^ f r0 (subkey1 k)
  l0 ++ r0

/-- 41_round_and_cipher.md R140: the source's known-answer triple, a hypothesis on the table parameters. -/
def KnownAnswer (t : Tables) : Prop :=
  encryptTwoRound t 0x33333333333333 0x1234567887654321 = 0xC844E31B90953751

/-- 40_primitives.md R111: how many of the 64 inputs `x` of S-box `j + 1` have
`sbox(i, x) ^ sbox(i, x ^ d) = δ`. -/
def differenceCount (t : Tables) (j : BitVec 3) (d : BitVec 6) (δ : BitVec 4) : Nat :=
  (List.finRange 64).countP fun x =>
    sbox t j (BitVec.ofFin x) ^^^ sbox t j (BitVec.ofFin x ^^^ d) == δ

/-- 40_primitives.md R111: how many of the 64 inputs of S-box `j + 1` map to `v`. -/
def preimageCount (t : Tables) (j : BitVec 3) (v : BitVec 4) : Nat :=
  (List.finRange 64).countP fun x => sbox t j (BitVec.ofFin x) == v

/-- What the unit answers to `op`, `a`, `k` with these tables, apart from any run: R161's `evaluate`. -/
def answerAlone (t : Tables) (op : Port 3) (a : Port 64) (k : Port 56) : Except Refusal Block :=
  if op.missing (BitVec.allOnes 3) ≠ 0 then .error (.undrivenOp (op.missing (BitVec.allOnes 3)))
  else if (undriven op.value a k).a = 0 ∧ (undriven op.value a k).k = 0 then
    .ok (eval t op.value a.value k.value)
  else .error (.undrivenInput op.value (undriven op.value a k).a (undriven op.value a k).k)

/-- The answers to a sequence of moves, each taken apart from the others (20_memory.md R58). -/
def answersAlone (t : Tables) : List HostMove → Except Refusal (List Block)
  | [] => .ok []
  | .reset :: ms => answersAlone t ms
  | .evaluate op a k :: ms =>
    match answerAlone t op a k, answersAlone t ms with
    | .ok y, .ok ys => .ok (y :: ys)
    | .error r, _ => .error r
    | _, .error r => .error r

/-- The values of a sequence of moves' evaluations, one `eval` for each evaluation and none for a reset signal. -/
def evaluationValues (t : Tables) (ms : List HostMove) : List Block :=
  ms.flatMap fun m =>
    match m with
    | .evaluate op a k => [eval t op.value a.value k.value]
    | .reset => []

/-- 10_state.md R24, the bit map the spec derives from `EROM`: the input bit that output bit `47-i` takes, one row per
chunk. -/
def eboxBitMap : Vector Nat 48 :=
  #v[0, 31, 30, 29, 28, 27,
     28, 27, 26, 25, 24, 23,
     24, 23, 22, 21, 20, 19,
     20, 19, 18, 17, 16, 15,
     16, 15, 14, 13, 12, 11,
     12, 11, 10, 9, 8, 7,
     8, 7, 6, 5, 4, 3,
     4, 3, 2, 1, 0, 31]

/-- 10_state.md R25, the bit map the spec derives from `PROM`: the input bit that output bit `31-i` takes. -/
def pboxBitMap : Vector Nat 32 :=
  #v[16, 25, 12, 11, 3, 20, 4, 15,
     31, 17, 9, 6, 27, 14, 1, 22,
     30, 24, 8, 18, 0, 5, 29, 23,
     13, 19, 2, 26, 10, 21, 28, 7]

/-- 10_state.md R25, the inverse view: the output bit in which input bit `31-i` lands, one row per two S-boxes. -/
def pboxLandings : Vector Nat 32 :=
  #v[23, 15, 9, 1, 19, 4, 30, 14,
     8, 16, 2, 26, 6, 12, 22, 31,
     24, 18, 7, 29, 28, 3, 21, 13,
     0, 20, 10, 25, 27, 5, 17, 11]

end Sys2Proof.Machine
end

