-- ==== Sys2Proof/Certificates/Slice0/Obligations.lean ====
section
/-!
DEFINITION. The statements about the machine. Each docstring names the rule of the spec it formalises; where a clause
rests on an inference the spec marks as its own ("derived") or on a choice of the model, it says so.
-/

open Sys2Proof Sys2Proof.Machine

/-! ### Reset, tables and the invariant -/

/-- 10_state.md section 2 (R27) with assumption 3, the model's choice of the default tables at reset: the S-box ROM right
after reset is the FIPS 46-3 row form, rearranged into address order: the row is `s[5] ‖ s[0]`, the column `s[4:1]`. -/
def Obligations.ResetSboxesFollowRowForm : Prop :=
  ∀ (j : BitVec 3) (s : BitVec 6),
    sbox State.reset.tables j s =
      fipsEntry j (s.extractLsb' 5 1 ++ s.extractLsb' 0 1) (s.extractLsb' 1 4)

/-- 10_state.md R29 with assumptions 1, 2 and 5, which are the model's choices: right after reset the tables are the
default ones, no evaluation has completed, no line of the input ports is driven, and a step is refused until the host
drives `op`. -/
def Obligations.ResetAwaitsHost : Prop :=
  State.reset.tables = fipsTables ∧ State.reset.y = none ∧ State.reset.outputNet = none ∧
    State.reset.op.driven = 0 ∧ State.reset.a.driven = 0 ∧ State.reset.k.driven = 0 ∧
    step State.reset = .refused (.undrivenOp 0b111)

/-- The invariant holds right after reset. Its clauses on the form of the ports and on `y` are the model's (assumptions
1 and 2). -/
def Obligations.ResetMeetsInvariant : Prop := Inv State.reset

/-- The invariant is kept by every step, from every state that meets it. -/
def Obligations.StepKeepsInvariant : Prop :=
  ∀ s s' : State, Inv s → step s = .next s' → Inv s'

/-- The invariant is kept by every run of host moves whose ports are held in their one form (assumption 2), from every
state that meets it (70_reset_and_hazards.md R186, R187). -/
def Obligations.RunsKeepInvariant : Prop :=
  ∀ (ms : List HostMove) (s s' : State),
    (∀ op a k, HostMove.evaluate op a k ∈ ms → op.Canonical ∧ a.Canonical ∧ k.Canonical) →
    Inv s → runMoves ms s = .next s' → Inv s'

/-- 70_reset_and_hazards.md R180: no move of the host, a reset signal included, changes the tables; a reset signal has
no effect on `y` for given inputs (`outputNet`), nor on any later evaluation. That the RECORDED `y` survives a reset
signal, and that a reset signal is a move that changes nothing, is the model's (assumptions 1 and 6). -/
def Obligations.ResetSignalHasNoEffect : Prop :=
  (∀ (m : HostMove) (s s' : State), hostMove m s = .next s' → s'.tables = s.tables) ∧
  (∀ s : State, ∃ s', hostMove .reset s = .next s' ∧ s'.outputNet = s.outputNet ∧ s'.y = s.y) ∧
  (∀ (ms ms' : List HostMove) (s : State), observe (ms ++ .reset :: ms') s = observe (ms ++ ms') s)

/-! ### Encoding and decoding -/

/-- 30_encoding.md R70, R72: decoding the word of a well-formed instruction gives the instruction back, with every
value of both operands. -/
def Obligations.DecodeOfEncode : Prop :=
  ∀ i : Instr, i.WellFormed → decodeWord (encode i) = i

/-- 30_encoding.md R76: every operation word decodes to exactly one operation, every value of `op`, `k` and `a` being
legal, and that operation has a result. -/
def Obligations.EveryWordIsOneOperation : Prop :=
  (∀ w : OpWord, (decodeWord w).WellFormed ∧ encode (decodeWord w) = w ∧
    ∀ i : Instr, i.WellFormed → encode i = w → i = decodeWord w) ∧
  (∀ (w : OpWord) (s : State), ∃ v, exec (decodeWord w) s = .next (s.putY v)) ∧
  (∀ (op : OpCode) (k : Key) (a : Block), ∃ w : OpWord,
    (decodeWord w).opcode = op ∧ (decodeWord w).portA = .drive a ∧ (decodeWord w).portK = .drive k) ∧
  (∀ v : Block, 1 ≤ (v.extractLsb' 6 3).toNat + 1 ∧ (v.extractLsb' 6 3).toNat + 1 ≤ 8)

/-- 30_encoding.md R70: the fields of the operation word, `op = W[122:120]`, `k = W[119:64]`, `a = W[63:0]`, bit by
bit. -/
def Obligations.WordFieldsArePorts : Prop :=
  ∀ w : OpWord,
    (∀ n, n < 3 → (decodeWord w).opcode.getLsbD n = w.getLsbD (120 + n)) ∧
    (∀ n, n < 56 → (decodeWord w).portK.value.getLsbD n = w.getLsbD (64 + n)) ∧
    (∀ n, n < 64 → (decodeWord w).portA.value.getLsbD n = w.getLsbD n)

/-- 30_encoding.md R72 and the opcode table's match and mask: the word decodes to the operation whose match its bits
under the mask are. -/
def Obligations.MaskedWordSelectsOperation : Prop :=
  ∀ w : OpWord,
    let m := w &&& 0x7000000000000000000000000000000
    (m = 0x0000000000000000000000000000000 ↔ (decodeWord w).mnemonic = "EXPAND") ∧
    (m = 0x1000000000000000000000000000000 ↔ (decodeWord w).mnemonic = "SUBST") ∧
    (m = 0x2000000000000000000000000000000 ↔ (decodeWord w).mnemonic = "PERMUTE") ∧
    (m = 0x3000000000000000000000000000000 ↔ (decodeWord w).mnemonic = "SBOX") ∧
    (m = 0x4000000000000000000000000000000 ↔ (decodeWord w).mnemonic = "FEISTEL") ∧
    (m = 0x5000000000000000000000000000000 ↔ (decodeWord w).mnemonic = "SUBKEY1") ∧
    (m = 0x6000000000000000000000000000000 ↔ (decodeWord w).mnemonic = "SUBKEY2") ∧
    (m = 0x7000000000000000000000000000000 ↔ (decodeWord w).mnemonic = "ENC2")

/-- Words of 95_test_vectors.md section 2 (V6, V11, V20, V24, V34, V41, V42, V54) decode to what they stand for. -/
def Obligations.SampleWordsDecode : Prop :=
  decodeTableWord 123 0x0000000000000000000000087654321 = some (.expand (.drive 0x87654321) (.drive 0)) ∧
  decodeTableWord 123 0x1000000000000000000F3D839935A30 = some (.subst (.drive 0xF3D839935A30) (.drive 0)) ∧
  decodeTableWord 123 0x200000000000000000000005EDC11C0 = some (.permute (.drive 0x5EDC11C0) (.drive 0)) ∧
  decodeTableWord 123 0x300000000000000000000000000000C = some (.sbox (.drive 0xC) (.drive 0)) ∧
  decodeTableWord 123 0x4003333333333330000000087654321 =
    some (.feistel (.drive 0x87654321) (.drive 0x333333333333)) ∧
  decodeTableWord 123 0x50123456789ABCD0000000000000000 = some (.subkey1 (.drive 0) (.drive 0x0123456789ABCD)) ∧
  decodeTableWord 123 0x60123456789ABCD0000000000000000 = some (.subkey2 (.drive 0) (.drive 0x0123456789ABCD)) ∧
  decodeTableWord 123 0x70123456789ABCD0123456789ABCDEF =
    some (.enc2 (.drive 0x0123456789ABCDEF) (.drive 0x0123456789ABCD))

/-- 30_encoding.md R72, column "reads": the bits of `a` and of `k` that each operation reads. -/
def Obligations.ReadsFollowOperationMap : Prop :=
  (∀ n, n < 64 →
    ((reads 0).a.getLsbD n = decide (n ≤ 31)) ∧ ((reads 1).a.getLsbD n = decide (n ≤ 47)) ∧
    ((reads 2).a.getLsbD n = decide (n ≤ 31)) ∧ ((reads 3).a.getLsbD n = decide (n ≤ 8)) ∧
    ((reads 4).a.getLsbD n = decide (n ≤ 31)) ∧ ((reads 5).a.getLsbD n = false) ∧
    ((reads 6).a.getLsbD n = false) ∧ ((reads 7).a.getLsbD n = true)) ∧
  (∀ n, n < 56 →
    ((reads 0).k.getLsbD n = false) ∧ ((reads 1).k.getLsbD n = false) ∧
    ((reads 2).k.getLsbD n = false) ∧ ((reads 3).k.getLsbD n = false) ∧
    ((reads 4).k.getLsbD n = decide (n ≤ 47)) ∧ ((reads 5).k.getLsbD n = decide (n ≤ 47)) ∧
    ((reads 6).k.getLsbD n = decide (8 ≤ n)) ∧ ((reads 7).k.getLsbD n = true))

/-! ### The step and its outcomes -/

/-- 70_reset_and_hazards.md R183: where every line of `op` is driven, a step runs the operation the ports carry, and
does nothing around it. -/
def Obligations.StepRunsPortsOperation : Prop :=
  ∀ s : State, linesDriven s.op 2 0 → step s = exec (decodePorts s.op.value s.a s.k) s

/-- 70_reset_and_hazards.md R183, 30_encoding.md R70: with an operation word on the input ports, a step runs the
instruction the word decodes to; the model's `withFetchWord` (assumption 5) puts it there. -/
def Obligations.StepRunsPresentedWord : Prop :=
  (∀ (s : State) (w : OpWord), step (s.presentWord w) = exec (decodeWord w) (s.presentWord w)) ∧
  (∀ (s : State) (nbits w : Nat) (i : Instr), decodeTableWord nbits w = some i →
    step (s.withFetchWord nbits w) = exec i (s.withFetchWord nbits w) ∧
    (s.withFetchWord nbits w).tables = s.tables ∧ (s.withFetchWord nbits w).y = s.y)

/-- 60_exceptions.md R161: an evaluation is refused, with the bits named, exactly when a line of `op` or a bit of `a`
or `k` that `op` reads is undriven; else `y` takes `eval(op, a, k)`. A refusal is kept for the whole run, and no bit
that `op` does not read brings one about. That one undriven line of `op` is enough, and is refused before `a` and `k`
are looked at, and which bits a refusal names, is the model's (assumption 12). -/
def Obligations.EvaluationIsRefusedExactlyWhenUndriven : Prop :=
  (∀ s : State, ¬linesDriven s.op 2 0 → ∃ m : BitVec 3,
    step s = .refused (.undrivenOp m) ∧ m ≠ 0 ∧ ∀ n, n < 3 → m.getLsbD n = !s.op.driven.getLsbD n) ∧
  (∀ s : State, linesDriven s.op 2 0 →
    (∃ n, ((reads s.op.value).a.getLsbD n = true ∧ s.a.driven.getLsbD n = false) ∨
      ((reads s.op.value).k.getLsbD n = true ∧ s.k.driven.getLsbD n = false)) →
    ∃ (aBits : BitVec 64) (kBits : BitVec 56),
      step s = .refused (.undrivenInput s.op.value aBits kBits) ∧
      (∀ n, aBits.getLsbD n = ((reads s.op.value).a.getLsbD n && !s.a.driven.getLsbD n)) ∧
      ∀ n, kBits.getLsbD n = ((reads s.op.value).k.getLsbD n && !s.k.driven.getLsbD n)) ∧
  (∀ s : State, linesDriven s.op 2 0 →
    (∀ n, (reads s.op.value).a.getLsbD n = true → s.a.driven.getLsbD n = true) →
    (∀ n, (reads s.op.value).k.getLsbD n = true → s.k.driven.getLsbD n = true) →
    step s = .next (s.putY (eval s.tables s.op.value s.a.value s.k.value))) ∧
  (∀ (m : HostMove) (ms : List HostMove) (s : State) (r : Refusal),
    hostMove m s = .refused r → runMoves (m :: ms) s = .refused r ∧ observe (m :: ms) s = .error r)

/-- 60_exceptions.md R160: for every value of its inputs every operation (EXPAND, SUBST, PERMUTE, SBOX, FEISTEL,
SUBKEY1, SUBKEY2 and ENC2) produces a result, `eval` of the inputs, and none ends in an exception. The one condition is
that the bits it reads are driven (R161). -/
def Obligations.EveryOperationProducesResult : Prop :=
  (∀ (i : Instr) (s : State),
    (∀ n, (reads i.opcode).a.getLsbD n = true → i.portA.driven.getLsbD n = true) →
    (∀ n, (reads i.opcode).k.getLsbD n = true → i.portK.driven.getLsbD n = true) →
    exec i s = .next (s.putY (eval s.tables i.opcode i.portA.value i.portK.value))) ∧
  (∀ (i : Instr) (s : State) (f : Fault), exec i s ≠ .fault f ∧ step s ≠ .fault f)

/-- 10_state.md R20, R21 and 20_memory.md R55: an operation that completes writes `y` and nothing else: the input
ports and the tables are as they were. -/
def Obligations.OperationWritesOnlyY : Prop :=
  ∀ (i : Instr) (s s' : State), exec i s = .next s' →
    s'.op = s.op ∧ s'.a = s.a ∧ s'.k = s.k ∧ s'.tables = s.tables ∧ s'.y ≠ none ∧
    s'.outputNet = s.outputNet

/-- 20_memory.md R55: repeating an evaluation with the same inputs gives the same `y`, and an evaluation changes
nothing but `y`. -/
def Obligations.RepeatedEvaluationGivesSameY : Prop :=
  ∀ s s' : State, step s = .next s' →
    step s' = .next s' ∧ ∃ v, s'.y = some v ∧ s' = s.putY v

/-- 00_scope.md R10: a result depends only on the arguments and the tables. Two states with the same tables answer an
instruction alike, whatever else they hold. -/
def Obligations.ResultDependsOnArgumentsAlone : Prop :=
  (∀ (i : Instr) (s t : State), s.tables = t.tables → ∀ s', exec i s = .next s' →
    ∃ t', exec i t = .next t' ∧ t'.y = s'.y) ∧
  (∀ (i : Instr) (s t : State) (r : Refusal), exec i s = .refused r → exec i t = .refused r) ∧
  (∀ s t : State, s.op = t.op → s.a = t.a → s.k = t.k → s.tables = t.tables →
    s.outputNet = t.outputNet)

/-- 30_encoding.md R74: an input bit that an operation does not read has no effect, whether it is driven with any value
or left undriven. -/
def Obligations.UnreadBitsAreIgnored : Prop :=
  ∀ (i j : Instr) (s : State), i.opcode = j.opcode →
    agreeOn (reads i.opcode).a i.portA j.portA → agreeOn (reads i.opcode).k i.portK j.portK →
    exec i s = exec j s

/-- 30_encoding.md R75: every operation's result (`operationValue`, of the width R72 lists) occupies `y[w-1:0]`, where
`w` is its result width, and all bits `y[63:w]` are 0: `y` is the result zero-extended to 64 bits. -/
def Obligations.ResultIsZeroExtended : Prop :=
  (∀ (t : Tables) (i : Instr), (operationValue t i).1 = resultWidth i.opcode) ∧
  (∀ (i : Instr) (s s' : State), exec i s = .next s' →
    ∃ y, s'.y = some y ∧ y = (operationValue s.tables i).2.setWidth 64 ∧
      (∀ n, n < resultWidth i.opcode → y.getLsbD n = (operationValue s.tables i).2.getLsbD n) ∧
      ∀ n, resultWidth i.opcode ≤ n → y.getLsbD n = false)

/-! ### The primitives -/

/-- 40_primitives.md R100: `E[47 - i] = R[32 - EROM[i]]`, for tables whose entries are positions (`Inv` says they
are). With the default table bit 32 (R[0]) and bit 1 (R[31]) wrap around. -/
def Obligations.ExpandCopiesBits : Prop :=
  (∀ (t : Tables) (r : Half), t.WF → ∀ i : Fin 48,
    (expand t r).getLsbD (47 - i) = r.getLsbD (32 - (t.erom[i]).toNat)) ∧
  (∀ r : Half, (expand fipsTables r).getLsbD 47 = r.getLsbD 0 ∧ (expand fipsTables r).getLsbD 0 = r.getLsbD 31)

/-- 10_state.md R24 and R25, the bit maps the spec derives from the default tables: what each output bit of the E-box and
the P-box takes, where each S-box output bit lands, and that the E-box takes an input position `t` twice exactly when
`t mod 4` is 0 or 1, and every other position once. -/
def Obligations.DefaultTablesGiveListedBitMaps : Prop :=
  (∀ (x : Half) (i : Fin 48), (expand fipsTables x).getLsbD (47 - i) = x.getLsbD eboxBitMap[i]) ∧
  (∀ (x : Half) (i : Fin 32), (permute fipsTables x).getLsbD (31 - i) = x.getLsbD pboxBitMap[i]) ∧
  (∀ (x : Half) (i : Fin 32), (permute fipsTables x).getLsbD pboxLandings[i] = x.getLsbD (31 - i)) ∧
  (∀ t : Fin 33, 1 ≤ t.val →
    (List.finRange 48).countP (fun i => (fipsErom[i]).toNat == t.val) =
      if t.val % 4 = 0 ∨ t.val % 4 = 1 then 2 else 1)

/-- 40_primitives.md R101: EXPAND. -/
def Obligations.ExpandOperation : Prop :=
  (∀ (a : Block) (k : Key), decodeWord ((0 : OpCode) ++ k ++ a) = .expand (.drive a) (.drive k)) ∧
  (∀ (s : State) (a : Port 64) (k : Port 56), linesDriven a 31 0 →
    exec (.expand a k) s = .next (s.putY ((expand s.tables (a.value.extractLsb' 0 32)).setWidth 64))) ∧
  (∀ (s : State) (a : Port 64) (k : Port 56), ¬linesDriven a 31 0 →
    exec (.expand a k) s = .refused (.undrivenInput 0 (a.missing 0xFFFFFFFF) 0)) ∧
  (∀ (a : Port 64) (k : Port 56), flagsWritten (.expand a k) = []) ∧
  (∀ (s : State) (a : Port 64) (k : Port 56) (y : Block), exec (.expand a k) s = .next (s.putY y) →
    y.extractLsb' 48 16 = 0) ∧
  (∀ (s : State) (k : Port 56), s.tables = fipsTables →
    exec (.expand (.drive 0) k) s = .next (s.putY 0) ∧
    exec (.expand (.drive 0xFFFFFFFF) k) s = .next (s.putY 0xFFFFFFFFFFFF) ∧
    exec (.expand (.drive 0x87654321) k) s = .next (s.putY 0x0000C0EB0AA06903)) ∧
  (∀ (s : State) (a : Port 64) (k : Port 56), s.tables = fipsTables → linesDriven a 31 0 →
    ∃ y, exec (.expand a k) s = .next (s.putY y) ∧
      y.getLsbD 47 = a.value.getLsbD 0 ∧ y.getLsbD 1 = a.value.getLsbD 0 ∧
      y.getLsbD 46 = a.value.getLsbD 31 ∧ y.getLsbD 0 = a.value.getLsbD 31)

/-- 40_primitives.md R102, which the spec derives: `expand` is linear over XOR, whatever positions its table holds, and
with the default tables R0's difference 0x60000000 becomes 0xC in chunk 1 and 0 in every other chunk. -/
def Obligations.ExpandIsLinear : Prop :=
  (∀ (t : Tables) (x y : Half), t.WF → expand t (x ^^^ y) = expand t x ^^^ expand t y) ∧
  (∀ x : Half, ∀ i, 1 ≤ i → i ≤ 8 →
    chunk i (expand fipsTables x ^^^ expand fipsTables (x ^^^ 0x60000000)) = if i = 1 then 0xC else 0)

/-- 40_primitives.md R103: chunk `i` is `S[53 - 6i : 48 - 6i]`, and equals `(S >> (48 - 6i)) & 0x3F`. -/
def Obligations.ChunkIsSixBitField : Prop :=
  (∀ (S : Subkey) (i : Nat), 1 ≤ i → i ≤ 8 →
    (∀ n, n < 6 → (chunk i S).getLsbD n = S.getLsbD (48 - 6 * i + n)) ∧
    (chunk i S).setWidth 48 = (S >>> (48 - 6 * i)) &&& 0x3F) ∧
  (∀ S : Subkey,
    chunk 1 S ++ chunk 2 S ++ chunk 3 S ++ chunk 4 S ++ chunk 5 S ++ chunk 6 S ++ chunk 7 S ++ chunk 8 S = S)

/-- 40_primitives.md R104, R106: chunk `i` goes through S-box `i`, and its result is `O[35 - 4i : 32 - 4i]`. -/
def Obligations.SubstituteLooksUpChunks : Prop :=
  ∀ (t : Tables) (S : Subkey) (i : Fin 8),
    (substitute t S).extractLsb' (28 - 4 * i) 4 =
      (t.srom[i])[(S >>> (42 - 6 * i.val)).toNat % 64]'(Nat.mod_lt _ (by decide))

/-- 40_primitives.md R107, which the spec derives: no lane reads another lane's input or writes another lane's output:
two inputs that differ in one chunk at most give outputs that differ in the matching nibble at most. -/
def Obligations.LanesAreIndependent : Prop :=
  ∀ (t : Tables) (S S' : Subkey) (i : Nat), 1 ≤ i → i ≤ 8 →
    (∀ j, 1 ≤ j → j ≤ 8 → j ≠ i → chunk j S = chunk j S') →
    ∀ j, 1 ≤ j → j ≤ 8 → j ≠ i →
      (substitute t S).extractLsb' (32 - 4 * j) 4 = (substitute t S').extractLsb' (32 - 4 * j) 4

/-- 40_primitives.md R105: SUBST. -/
def Obligations.SubstOperation : Prop :=
  (∀ (a : Block) (k : Key), decodeWord ((1 : OpCode) ++ k ++ a) = .subst (.drive a) (.drive k)) ∧
  (∀ (s : State) (a : Port 64) (k : Port 56), linesDriven a 47 0 →
    exec (.subst a k) s = .next (s.putY ((substitute s.tables (a.value.extractLsb' 0 48)).setWidth 64))) ∧
  (∀ (s : State) (a : Port 64) (k : Port 56), ¬linesDriven a 47 0 →
    exec (.subst a k) s = .refused (.undrivenInput 1 (a.missing 0xFFFFFFFFFFFF) 0)) ∧
  (∀ (a : Port 64) (k : Port 56), flagsWritten (.subst a k) = []) ∧
  (∀ (s : State) (a : Port 64) (k : Port 56) (y : Block), exec (.subst a k) s = .next (s.putY y) →
    y.extractLsb' 32 32 = 0) ∧
  (∀ (s : State) (k : Port 56), s.tables = fipsTables →
    exec (.subst (.drive 0) k) s = .next (s.putY 0xEFA72C4D) ∧
    exec (.subst (.drive 0xFFFFFFFFFFFF) k) s = .next (s.putY 0xD9CE3DCB) ∧
    exec (.subst (.drive 0xF3D839935A30) k) s = .next (s.putY 0x000000005EDC11C0)) ∧
  (∀ (s : State) (a b : Block) (k : Port 56) (i : Nat), 1 ≤ i → i ≤ 8 →
    (∀ n, ¬(48 - 6 * i ≤ n ∧ n ≤ 53 - 6 * i) → a.getLsbD n = b.getLsbD n) →
    ∃ y z, exec (.subst (.drive a) k) s = .next (s.putY y) ∧ exec (.subst (.drive b) k) s = .next (s.putY z) ∧
      ∀ n, ¬(32 - 4 * i ≤ n ∧ n ≤ 35 - 4 * i) → y.getLsbD n = z.getLsbD n)

/-- 40_primitives.md R108: `Y[31 - i] = O[32 - PROM[i]]`, for tables whose entries are positions (`Inv` says they
are). -/
def Obligations.PermuteMovesBits : Prop :=
  ∀ (t : Tables) (o : Half), t.WF → ∀ i : Fin 32,
    (permute t o).getLsbD (31 - i) = o.getLsbD (32 - (t.prom[i]).toNat)

/-- 40_primitives.md R109: PERMUTE. -/
def Obligations.PermuteOperation : Prop :=
  (∀ (a : Block) (k : Key), decodeWord ((2 : OpCode) ++ k ++ a) = .permute (.drive a) (.drive k)) ∧
  (∀ (s : State) (a : Port 64) (k : Port 56), linesDriven a 31 0 →
    exec (.permute a k) s = .next (s.putY ((permute s.tables (a.value.extractLsb' 0 32)).setWidth 64))) ∧
  (∀ (s : State) (a : Port 64) (k : Port 56), ¬linesDriven a 31 0 →
    exec (.permute a k) s = .refused (.undrivenInput 2 (a.missing 0xFFFFFFFF) 0)) ∧
  (∀ (a : Port 64) (k : Port 56), flagsWritten (.permute a k) = []) ∧
  (∀ (s : State) (a : Port 64) (k : Port 56) (y : Block), exec (.permute a k) s = .next (s.putY y) →
    y.extractLsb' 32 32 = 0) ∧
  (∀ (s : State) (k : Port 56), s.tables = fipsTables →
    exec (.permute (.drive 0) k) s = .next (s.putY 0) ∧
    exec (.permute (.drive 0xFFFFFFFF) k) s = .next (s.putY 0xFFFFFFFF) ∧
    exec (.permute (.drive 0x80000000) k) s = .next (s.putY 0x00800000) ∧
    exec (.permute (.drive 0x00000001) k) s = .next (s.putY 0x00000800) ∧
    exec (.permute (.drive 0xD0000000) k) s = .next (s.putY 0x0000000000808002))

/-- 40_primitives.md R110, which the spec derives: with a table that holds each position once (`Inv` says so),
`permute` is a bijection, is linear over XOR, and preserves the number of set bits. -/
def Obligations.PermuteIsLinearBijection : Prop :=
  ∀ t : Tables, t.WF → t.PromOnce →
    Function.Bijective (permute t) ∧
    (∀ x y : Half, permute t (x ^^^ y) = permute t x ^^^ permute t y) ∧
    ∀ x : Half, (List.range 32).countP (fun n => (permute t x).getLsbD n) =
      (List.range 32).countP fun n => x.getLsbD n

/-- 40_primitives.md R111, which the spec derives: a row of differences sums to 64, and the row of difference 0 is 64
at output difference 0, whatever the ROM holds; with the default tables each S-box maps four inputs to each output, and
each row of its FIPS form is a permutation (10_state.md R27). -/
def Obligations.SboxRowsAreBalanced : Prop :=
  (∀ (t : Tables) (j : BitVec 3) (d : BitVec 6),
    ((List.finRange 16).map fun δ => differenceCount t j d (BitVec.ofFin δ)).sum = 64) ∧
  (∀ (t : Tables) (j : BitVec 3) (δ : BitVec 4), differenceCount t j 0 δ = if δ = 0 then 64 else 0) ∧
  (∀ (j : BitVec 3) (v : BitVec 4), preimageCount fipsTables j v = 4) ∧
  (∀ (j : BitVec 3) (row : BitVec 2) (v : BitVec 4), ∃ col, fipsEntry j row col = v)

/-- 40_primitives.md R112: SBOX. -/
def Obligations.SboxOperation : Prop :=
  (∀ (a : Block) (k : Key), decodeWord ((3 : OpCode) ++ k ++ a) = .sbox (.drive a) (.drive k)) ∧
  (∀ (s : State) (a : Port 64) (k : Port 56), linesDriven a 8 0 →
    exec (.sbox a k) s = .next (s.putY
      (((s.tables.srom[(a.value >>> 6).toNat % 8]'(Nat.mod_lt _ (by decide)))[a.value.toNat % 64]'(
        Nat.mod_lt _ (by decide))).setWidth 64))) ∧
  (∀ (s : State) (a : Port 64) (k : Port 56), ¬linesDriven a 8 0 →
    exec (.sbox a k) s = .refused (.undrivenInput 3 (a.missing 0x1FF) 0)) ∧
  (∀ (a : Port 64) (k : Port 56), flagsWritten (.sbox a k) = []) ∧
  (∀ (s : State) (a : Port 64) (k : Port 56) (y : Block), exec (.sbox a k) s = .next (s.putY y) →
    y.extractLsb' 4 60 = 0) ∧
  (∀ (s : State) (a b : Block) (k : Port 56), a.extractLsb' 0 9 = b.extractLsb' 0 9 →
    exec (.sbox (.drive a) k) s = exec (.sbox (.drive b) k) s) ∧
  (∀ a : Block, 1 ≤ (a.extractLsb' 6 3).toNat + 1 ∧ (a.extractLsb' 6 3).toNat + 1 ≤ 8) ∧
  (∀ (s : State) (k : Port 56), s.tables = fipsTables →
    exec (.sbox (.drive 0x000) k) s = .next (s.putY 0xE) ∧
    exec (.sbox (.drive 0x03F) k) s = .next (s.putY 0xD) ∧
    exec (.sbox (.drive 0x1FF) k) s = .next (s.putY 0xB) ∧
    exec (.sbox (.drive 0x040) k) s = .next (s.putY 0xF) ∧
    exec (.sbox (.drive 0xFFFFFFFFFFFFFE00) k) s = .next (s.putY 0xE) ∧
    exec (.sbox (.drive 0x00C) k) s = .next (s.putY 0xB))

/-! ### The round function, the subkeys and the cipher -/

/-- 41_round_and_cipher.md R130: FEISTEL is the source's five steps: EXPAND, the subkey XOR, SUBST, PERMUTE, and the
XOR with the low 32 bits of the subkey, each taken from the unit's own operation. -/
def Obligations.FeistelIsFiveSteps : Prop :=
  ∀ (s : State) (a : Block) (k : Key), ∃ e o p : Block,
    exec (.expand (.drive a) (.drive k)) s = .next (s.putY e) ∧
    exec (.subst (.drive (e ^^^ (k.extractLsb' 0 48).setWidth 64)) (.drive k)) s = .next (s.putY o) ∧
    exec (.permute (.drive o) (.drive k)) s = .next (s.putY p) ∧
    exec (.feistel (.drive a) (.drive k)) s = .next (s.putY (p ^^^ (k.extractLsb' 0 32).setWidth 64))

/-- 41_round_and_cipher.md R131: FEISTEL. -/
def Obligations.FeistelOperation : Prop :=
  (∀ (a : Block) (k : Key), decodeWord ((4 : OpCode) ++ k ++ a) = .feistel (.drive a) (.drive k)) ∧
  (∀ (s : State) (a : Port 64) (k : Port 56), linesDriven a 31 0 → linesDriven k 47 0 →
    exec (.feistel a k) s = .next (s.putY
      ((feistel s.tables (a.value.extractLsb' 0 32) (k.value.extractLsb' 0 48)).setWidth 64))) ∧
  (∀ (s : State) (a : Port 64) (k : Port 56), ¬(linesDriven a 31 0 ∧ linesDriven k 47 0) →
    exec (.feistel a k) s =
      .refused (.undrivenInput 4 (a.missing 0xFFFFFFFF) (k.missing 0xFFFFFFFFFFFF))) ∧
  (∀ (a : Port 64) (k : Port 56), flagsWritten (.feistel a k) = []) ∧
  (∀ (s : State) (a : Port 64) (k : Port 56) (y : Block), exec (.feistel a k) s = .next (s.putY y) →
    y.extractLsb' 32 32 = 0) ∧
  (∀ (s : State) (a : Port 64) (k k' : Key), k.extractLsb' 0 48 = k'.extractLsb' 0 48 →
    exec (.feistel a (.drive k)) s = exec (.feistel a (.drive k')) s) ∧
  (∀ s : State, s.tables = fipsTables →
    exec (.feistel (.drive 0) (.drive 0)) s = .next (s.putY 0xD8D8DBBC) ∧
    exec (.feistel (.drive 0xFFFFFFFF) (.drive 0xFFFFFFFFFFFF)) s = .next (s.putY 0x27272443) ∧
    exec (.feistel (.drive 0x87654321) (.drive 0xFF333333333333)) s = .next (s.putY 0x572A8260) ∧
    exec (.feistel (.drive 0x87654321) (.drive 0x333333333333)) s = .next (s.putY 0x00000000572A8260)) ∧
  (expand fipsTables 0x87654321 = 0xC0EB0AA06903 ∧
    expand fipsTables 0x87654321 ^^^ 0x333333333333 = 0xF3D839935A30 ∧
    substitute fipsTables 0xF3D839935A30 = 0x5EDC11C0 ∧ permute fipsTables 0x5EDC11C0 = 0x6419B153) ∧
  feistel fipsTables 0 0 = permute fipsTables (substitute fipsTables 0)

/-- 41_round_and_cipher.md R132: `K1 = K & MASK_48`, `K2 = (K >> 8) & MASK_48`; they share K[47:8], K[7:0] enters only
K1 and K[55:48] only K2. -/
def Obligations.SubkeysAreKeyFields : Prop :=
  (∀ k : Key, (subkey1 k).setWidth 56 = k &&& 0xFFFFFFFFFFFF ∧
    (subkey2 k).setWidth 56 = (k >>> 8) &&& 0xFFFFFFFFFFFF) ∧
  (∀ k : Key, (∀ n, n < 48 → (subkey1 k).getLsbD n = k.getLsbD n) ∧
    ∀ n, n < 48 → (subkey2 k).getLsbD n = k.getLsbD (n + 8)) ∧
  (∀ k : Key, ∀ n, n < 40 → (subkey1 k).getLsbD (n + 8) = (subkey2 k).getLsbD n) ∧
  (∀ k k' : Key, (∀ n, 8 ≤ n → k.getLsbD n = k'.getLsbD n) → subkey2 k = subkey2 k') ∧
  (∀ k k' : Key, (∀ n, n < 48 → k.getLsbD n = k'.getLsbD n) → subkey1 k = subkey1 k')

/-- 41_round_and_cipher.md R133: SUBKEY1. -/
def Obligations.Subkey1Operation : Prop :=
  (∀ (a : Block) (k : Key), decodeWord ((5 : OpCode) ++ k ++ a) = .subkey1 (.drive a) (.drive k)) ∧
  (∀ (s : State) (a : Port 64) (k : Port 56), linesDriven k 47 0 →
    exec (.subkey1 a k) s = .next (s.putY (BitVec.ofNat 64 (k.value.toNat % 2 ^ 48)))) ∧
  (∀ (s : State) (a : Port 64) (k : Port 56), ¬linesDriven k 47 0 →
    exec (.subkey1 a k) s = .refused (.undrivenInput 5 0 (k.missing 0xFFFFFFFFFFFF))) ∧
  (∀ (a : Port 64) (k : Port 56), flagsWritten (.subkey1 a k) = []) ∧
  (∀ (s : State) (a : Port 64) (k : Port 56) (y : Block), exec (.subkey1 a k) s = .next (s.putY y) →
    y.extractLsb' 48 16 = 0) ∧
  (∀ (s : State) (a : Port 64),
    exec (.subkey1 a (.drive 0xFF000000000000)) s = .next (s.putY 0) ∧
    exec (.subkey1 a (.drive 0x000000000000FF)) s = .next (s.putY 0xFF) ∧
    exec (.subkey1 a (.drive 0xFFFFFFFFFFFFFF)) s = .next (s.putY 0xFFFFFFFFFFFF) ∧
    exec (.subkey1 a (.drive 0x0123456789ABCD)) s = .next (s.putY 0x000023456789ABCD))

/-- 41_round_and_cipher.md R134: SUBKEY2. -/
def Obligations.Subkey2Operation : Prop :=
  (∀ (a : Block) (k : Key), decodeWord ((6 : OpCode) ++ k ++ a) = .subkey2 (.drive a) (.drive k)) ∧
  (∀ (s : State) (a : Port 64) (k : Port 56), linesDriven k 55 8 →
    exec (.subkey2 a k) s = .next (s.putY (BitVec.ofNat 64 (k.value.toNat / 2 ^ 8)))) ∧
  (∀ (s : State) (a : Port 64) (k : Port 56), ¬linesDriven k 55 8 →
    exec (.subkey2 a k) s = .refused (.undrivenInput 6 0 (k.missing 0xFFFFFFFFFFFF00))) ∧
  (∀ (a : Port 64) (k : Port 56), flagsWritten (.subkey2 a k) = []) ∧
  (∀ (s : State) (a : Port 64) (k : Port 56) (y : Block), exec (.subkey2 a k) s = .next (s.putY y) →
    y.extractLsb' 48 16 = 0) ∧
  (∀ (s : State) (a : Port 64),
    exec (.subkey2 a (.drive 0xFF000000000000)) s = .next (s.putY 0xFF0000000000) ∧
    exec (.subkey2 a (.drive 0x000000000000FF)) s = .next (s.putY 0) ∧
    exec (.subkey2 a (.drive 0x33333333333333)) s = .next (s.putY 0x333333333333) ∧
    exec (.subkey1 a (.drive 0x33333333333333)) s = .next (s.putY 0x333333333333) ∧
    exec (.subkey2 a (.drive 0x0123456789ABCD)) s = .next (s.putY 0x00000123456789AB))

/-- 41_round_and_cipher.md R135: ENC2 is two rounds of the unit's own FEISTEL on the unit's own subkeys, with the
halves swapped after each, and its output is `L2 ‖ R2`. -/
def Obligations.CipherIsTwoRounds : Prop :=
  ∀ (s : State) (a : Block) (k : Key), ∃ k1 k2 f1 f2 : Block,
    exec (.subkey1 (.drive a) (.drive k)) s = .next (s.putY k1) ∧
    exec (.subkey2 (.drive a) (.drive k)) s = .next (s.putY k2) ∧
    exec (.feistel (.drive (a &&& 0xFFFFFFFF)) (.drive (k1.setWidth 56))) s = .next (s.putY f1) ∧
    exec (.feistel (.drive ((a >>> 32) ^^^ f1)) (.drive (k2.setWidth 56))) s = .next (s.putY f2) ∧
    exec (.enc2 (.drive a) (.drive k)) s =
      .next (s.putY ((((a >>> 32) ^^^ f1) <<< 32) ||| ((a &&& 0xFFFFFFFF) ^^^ f2)))

/-- 41_round_and_cipher.md R136: ENC2. The key's bytes K[7:0] and K[55:48] enter one round each. -/
def Obligations.Enc2Operation : Prop :=
  (∀ (a : Block) (k : Key), decodeWord ((7 : OpCode) ++ k ++ a) = .enc2 (.drive a) (.drive k)) ∧
  (∀ (s : State) (a : Port 64) (k : Port 56), linesDriven a 63 0 → linesDriven k 55 0 →
    exec (.enc2 a k) s = .next (s.putY (encryptTwoRound s.tables k.value a.value))) ∧
  (∀ (s : State) (a : Port 64) (k : Port 56), ¬(linesDriven a 63 0 ∧ linesDriven k 55 0) →
    exec (.enc2 a k) s =
      .refused (.undrivenInput 7 (a.missing 0xFFFFFFFFFFFFFFFF) (k.missing 0xFFFFFFFFFFFFFF))) ∧
  (∀ (a : Port 64) (k : Port 56), flagsWritten (.enc2 a k) = []) ∧
  (∀ k : Key, (∀ n, 8 ≤ n → k.getLsbD n = false) → subkey2 k = subkey2 0) ∧
  (∀ k : Key, (∀ n, n < 48 → k.getLsbD n = false) → subkey1 k = subkey1 0) ∧
  (∀ (s : State) (a : Block) (k : Key), subkey1 k = subkey2 k →
    exec (.enc2 (.drive a) (.drive k)) s =
      .next (s.putY (encryptWith (fun r _ => feistel s.tables r (subkey1 k)) k a))) ∧
  subkey1 0x33333333333333 = 0x333333333333 ∧ subkey2 0x33333333333333 = 0x333333333333 ∧
  (∀ s : State, s.tables = fipsTables →
    exec (.enc2 (.drive 0) (.drive 0)) s = .next (s.putY 0xD8D8DBBCE73AED4F) ∧
    exec (.enc2 (.drive 0xFFFFFFFFFFFFFFFF) (.drive 0xFFFFFFFFFFFFFF)) s =
      .next (s.putY 0xD8D8DBBC32D1A671) ∧
    exec (.enc2 (.drive 0x1234567887654321) (.drive 0x33333333333333)) s =
      .next (s.putY 0x451ED41889B1DCF5) ∧
    exec (.enc2 (.drive 0x1234567887654321) (.drive 0x33333333333333)) s ≠
      .next (s.putY 0xC844E31B90953751)) ∧
  (highHalf 0xD8D8DBBCE73AED4F = feistel fipsTables 0 0 ∧
    highHalf 0x1234567887654321 = 0x12345678 ∧ lowHalf 0x1234567887654321 = 0x87654321 ∧
    feistel fipsTables 0x87654321 0x333333333333 = 0x572A8260 ∧
    (0x12345678 : Half) ^^^ 0x572A8260 = 0x451ED418 ∧
    feistel fipsTables 0x451ED418 0x333333333333 = 0x0ED49FD4 ∧
    (0x87654321 : Half) ^^^ 0x0ED49FD4 = 0x89B1DCF5)

/-- 41_round_and_cipher.md R139, which the spec derives: the cipher is invertible for every key and every tables: the
recurrence recovers the block, for any round function, and ENC2 gives two plaintexts two ciphertexts. -/
def Obligations.CipherIsInvertible : Prop :=
  (∀ (f : Half → Subkey → Half) (k : Key) (p : Block), recover f k (encryptWith f k p) = p) ∧
  (∀ (f : Half → Subkey → Half) (k : Key) (c : Block), encryptWith f k (recover f k c) = c) ∧
  (∀ (s : State) (k : Key) (c : Block),
    exec (.enc2 (.drive (recover (feistel s.tables) k c)) (.drive k)) s = .next (s.putY c)) ∧
  (∀ (s s1 s2 : State) (a b : Port 64) (k : Port 56), exec (.enc2 a k) s = .next s1 →
    exec (.enc2 b k) s = .next s2 → s1.y = s2.y → a.value = b.value)

/-- 41_round_and_cipher.md R140: the source's known answer is what ENC2 gives for every tables that satisfy the
hypothesis; with the default tables ENC2 gives 0x451ED41889B1DCF5, and they do not satisfy it (90_conflicts.md C4). -/
def Obligations.KnownAnswerIsHypothesisOnTables : Prop :=
  (∀ s : State, KnownAnswer s.tables →
    exec (.enc2 (.drive 0x1234567887654321) (.drive 0x33333333333333)) s =
      .next (s.putY 0xC844E31B90953751)) ∧
  (∀ s : State, s.tables = fipsTables →
    exec (.enc2 (.drive 0x1234567887654321) (.drive 0x33333333333333)) s =
      .next (s.putY 0x451ED41889B1DCF5)) ∧
  ¬KnownAnswer fipsTables

/-- 41_round_and_cipher.md R141, which the spec derives: the post-P-box XOR cancels in a difference, and equal inputs
give difference 0 whatever the subkey. -/
def Obligations.RoundDifferenceIgnoresPostXor : Prop :=
  (∀ (t : Tables) (r r' : Half) (k : Subkey), t.WF →
    feistel t r k ^^^ feistel t r' k =
      permute t (substitute t (expand t r ^^^ k) ^^^ substitute t (expand t r' ^^^ k))) ∧
  (∀ (t : Tables) (r r' : Half) (k : Subkey), r ^^^ r' = 0 → feistel t r k ^^^ feistel t r' k = 0)

/-- 41_round_and_cipher.md R141 and 95_test_vectors.md E2, which the spec derives: with the default tables, and for
every key and plaintext, the plaintext difference 0x0080800260000000 gives the ciphertext difference
0x0000000060000000 exactly when S1's output difference in round 1 is 0xD. -/
def Obligations.RightPairIsSboxDifference : Prop :=
  ∀ (s : State) (k : Key) (p : Block), s.tables = fipsTables → ∃ c c' : Block,
    exec (.enc2 (.drive p) (.drive k)) s = .next (s.putY c) ∧
    exec (.enc2 (.drive (p ^^^ 0x0080800260000000)) (.drive k)) s = .next (s.putY c') ∧
    (c ^^^ c' = 0x0000000060000000 ↔
      sbox fipsTables 0 (chunk 1 (expand fipsTables (p.extractLsb' 0 32) ^^^ subkey1 k)) ^^^
        sbox fipsTables 0
          (chunk 1 (expand fipsTables (p.extractLsb' 0 32 ^^^ 0x60000000) ^^^ subkey1 k)) = 0xD)

/-! ### The host, several units, and the notation -/

/-- 20_memory.md R58 and 70_reset_and_hazards.md R184 (which the spec derives): in every run, each evaluation's answer
is the one it gives alone: no earlier evaluation is observed by a later one. -/
def Obligations.RunIsItsEvaluationsAlone : Prop :=
  ∀ (ms : List HostMove) (s : State), observe ms s = answersAlone s.tables ms

/-- 70_reset_and_hazards.md R187: a run's observation is the sequence of its `y` values (the `eval` of each evaluation's
inputs, in order) and, for a host program, its named values; a run with a refused evaluation has none, wherever the
refusal stands. That a host program has no observation either when it stops for another reason (a check that fails, a
name never given, a value too wide: the last clause's other cases) is the model's (assumption 14). -/
def Obligations.RefusedRunHasNoObservation : Prop :=
  (∀ (ms : List HostMove) (s s' : State), runMoves ms s = .next s' →
    observe ms s = .ok (evaluationValues s.tables ms) ∧
      (evaluationValues s.tables ms).length = ms.countP (· ≠ .reset)) ∧
  (∀ (ms ms' : List HostMove) (m : HostMove) (s s' : State) (r : Refusal), runMoves ms s = .next s' →
    hostMove m s' = .refused r → observe (ms ++ m :: ms') s = .error r) ∧
  (∀ (p : List HostStmt) (s : State) (r : HostRun),
    runProgram p { unit := s, names := [], ys := [] } = .ok r → programObservation p s = .ok (r.ys, r.names)) ∧
  (∀ (p q : List HostStmt) (st : HostStmt) (s : State) (r : HostRun) (e : HostStop),
    runProgram p { unit := s, names := [], ys := [] } = .ok r → runStmt st r = .error e →
    programObservation (p ++ st :: q) s = .error e)

/-- 10_state.md R31: two instances share no state, and may evaluate with no ordering constraint: a move on one leaves
every other as it was; two moves on two units give the same system in either order; a move is refused after another
unit's move exactly when it is refused before it; and moves made at the same time, each unit its own or none, leave what
the same moves leave one after another, in whatever order, and are refused on some unit exactly when those are. How
several units and moves at the same time are shown is the model's (assumption 10), and so is that one unit's refusal
ends a run of moves one after another (assumption 18). -/
def Obligations.UnitsShareNothing : Prop :=
  (∀ (n : Nat) (i j : Fin n) (m : HostMove) (sys sys' : System n), systemMove i m sys = .next sys' → j ≠ i →
    sys'[j] = sys[j]) ∧
  (∀ (n : Nat) (i j : Fin n) (m m' : HostMove) (sys sys1 sys2 : System n), i ≠ j →
    systemMove i m sys = .next sys1 → systemMove j m' sys1 = .next sys2 →
    ∃ sys3, systemMove j m' sys = .next sys3 ∧ systemMove i m sys3 = .next sys2) ∧
  (∀ (n : Nat) (i j : Fin n) (m m' : HostMove) (sys sys1 : System n) (r : Refusal), i ≠ j →
    systemMove j m' sys = .next sys1 → (systemMove i m sys1 = .refused r ↔ systemMove i m sys = .refused r)) ∧
  (∀ (n : Nat) (moves : Vector (Option HostMove) n) (ms : List (Fin n × HostMove)) (sys : System n),
    (ms.map Prod.fst).Nodup → (∀ i m, (i, m) ∈ ms ↔ moves[i] = some m) →
    (∀ sys', runSystem ms sys = .next sys' ↔ ∀ j : Fin n, (simultaneousMoves moves sys)[j] = .next sys'[j]) ∧
    ((∃ r, runSystem ms sys = .refused r) ↔ ∃ (i : Fin n) (r : Refusal),
      (simultaneousMoves moves sys)[i] = .refused r)) ∧
  (∀ (n : Nat) (moves moves' : Vector (Option HostMove) n) (sys sys' : System n) (j : Fin n),
    moves[j] = moves'[j] → sys[j] = sys'[j] →
    (simultaneousMoves moves sys)[j] = (simultaneousMoves moves' sys')[j])

/-- 30_encoding.md R77: a line assembles to `W = (op << 120) | (k << 64) | a`, an omitted operand is 0, a value wider
than its port is an error, and the rule's example assembles to the word the rule gives. The last clause is the model's
where R77 is silent (assumption 13): a line that is only a comment gives no word, and blanks are skipped. -/
def Obligations.LineAssemblesToWord : Prop :=
  (∀ (op : OpCode) (a : Block) (k : Key), ∃ w,
    assemble (.operation op a.toNat k.toNat) = .ok w ∧
    decodeWord w = decodePorts op (.drive a) (.drive k)) ∧
  (∀ (op : OpCode) (a k : Nat), 2 ^ 64 ≤ a ∨ 2 ^ 56 ≤ k →
    assemble (.operation op a k) = .error .valueTooWide) ∧
  assembleText ["FEISTEL a=0x87654321, k=0x333333333333 ; R and K".toList] =
    .ok [0x4003333333333330000000087654321] ∧
  assembleText ["SUBKEY1 k=0x33333333333333".toList, "; a comment".toList, "EXPAND".toList] =
    .ok [0x5333333333333330000000000000000, 0]

/-- 30_encoding.md R78: each pseudo-operation expands to exactly one operation, and that operation does what the rule
says: SBOX<n> looks S-box n up, ROUNDF is one round function, ENCRYPT is the 2-round cipher. -/
def Obligations.PseudoOperationsExpand : Prop :=
  (∀ n v, 1 ≤ n → n ≤ 8 → v ≤ 0x3F → (SourceLine.sboxN n v).expansion = .ok (3, ((n - 1) <<< 6) ||| v, 0)) ∧
  (∀ r key, key < 2 ^ 48 → (SourceLine.roundf r key).expansion = .ok (4, r, key)) ∧
  (∀ p key, (SourceLine.encrypt p key).expansion = .ok (7, p, key)) ∧
  (∀ (j : BitVec 3) (v : BitVec 6) (s : State), ∃ w, assemble (.sboxN (j.toNat + 1) v.toNat) = .ok w ∧
    exec (decodeWord w) s = .next (s.putY ((sbox s.tables j v).setWidth 64))) ∧
  (∀ (r : Half) (key : Subkey) (s : State), ∃ w, assemble (.roundf r.toNat key.toNat) = .ok w ∧
    exec (decodeWord w) s = .next (s.putY ((feistel s.tables r key).setWidth 64))) ∧
  (∀ (p : Block) (key : Key) (s : State), ∃ w, assemble (.encrypt p.toNat key.toNat) = .ok w ∧
    exec (decodeWord w) s = .next (s.putY (encryptTwoRound s.tables key p)))

/-- 30_encoding.md R79 and 70_reset_and_hazards.md R187: an operation statement evaluates the operation on the values of
its operands, names its `y` and adds it to the observation; host arithmetic on named values (`x ^ y`, `x & MASK_n`,
`x >> n`, `(x << 32) | y`) names its result and adds nothing to the observation; a check passes exactly when it holds,
and changes nothing. The 64-bit width of named values, what a name given again holds, and every clause that ends in an
error is the model's (assumption 14). -/
def Obligations.HostStatementsNameResults : Prop :=
  (∀ (r : HostRun) (v : String) (op : OpCode) (a k : HostExpr) (x y : Block),
    hostValue r.names a = .ok x → hostValue r.names k = .ok y → y.toNat < 2 ^ 56 → ∃ r',
    runStmt (.operation v op a k 0 0) r = .ok r' ∧
    r'.names.lookup v = some (eval r.unit.tables op x (y.setWidth 56)) ∧
    r'.ys = r.ys ++ [eval r.unit.tables op x (y.setWidth 56)] ∧
    (∀ u, u ≠ v → r'.names.lookup u = r.names.lookup u) ∧ r'.unit.tables = r.unit.tables) ∧
  (∀ (r : HostRun) (v : String) (op : OpCode) (a k : HostExpr) (aFloat : BitVec 64) (kFloat : BitVec 56)
    (x y : Block), hostValue r.names a = .ok x → hostValue r.names k = .ok y →
    (2 ^ 56 ≤ y.toNat → runStmt (.operation v op a k aFloat kFloat) r = .error .valueTooWide) ∧
    (y.toNat < 2 ^ 56 → ((reads op).a &&& aFloat ≠ 0 ∨ (reads op).k &&& kFloat ≠ 0) →
      runStmt (.operation v op a k aFloat kFloat) r =
        .error (.refused (.undrivenInput op ((reads op).a &&& aFloat) ((reads op).k &&& kFloat))))) ∧
  (∀ (r : HostRun) (v : String) (e : HostExpr) (x : Block), hostValue r.names e = .ok x → ∃ r',
    runStmt (.compute v e) r = .ok r' ∧ r'.names.lookup v = some x ∧
    (∀ u, u ≠ v → r'.names.lookup u = r.names.lookup u) ∧ r'.ys = r.ys ∧ r'.unit = r.unit) ∧
  (∀ (names : List (String × Block)) (x y : HostExpr) (u w : Block),
    hostValue names x = .ok u → hostValue names y = .ok w →
    hostValue names (.xor x y) = .ok (u ^^^ w) ∧
    (∀ n, ∃ z, hostValue names (.mask x n) = .ok z ∧ ∀ b, z.getLsbD b = (decide (b < n) && u.getLsbD b)) ∧
    (∀ n, ∃ z, hostValue names (.shiftRight x n) = .ok z ∧ ∀ b, z.getLsbD b = u.getLsbD (n + b)) ∧
    ∃ z, hostValue names (.join x y) = .ok z ∧ (∀ b, b < 32 → z.getLsbD b = w.getLsbD b) ∧
      ∀ b, b < 32 → z.getLsbD (32 + b) = (u.getLsbD b || w.getLsbD (32 + b))) ∧
  (∀ (names : List (String × Block)) (n : String) (v : Block), hostValue names (.value v) = .ok v ∧
    (names.lookup n = some v → hostValue names (.named n) = .ok v) ∧
    (names.lookup n = none → hostValue names (.named n) = .error (.unknownName n))) ∧
  (∀ (r : HostRun) (x y : HostExpr) (u w : Block) (b : Bool),
    hostValue r.names x = .ok u → hostValue r.names y = .ok w →
    runStmt (.check x y b) r = if (decide (u = w)) = b then .ok r else .error .checkFailed)
end

