-- ==== Sys2Proof/Laws/Operands.lean ====
section
/-!
SUPPORT. What selecting bits by a table of positions does, bit by bit (00_scope.md R7), and the S-box bank's ROM.
-/

namespace Sys2Proof.Machine

/-- A position names the bit R7 says. -/
theorem positionBit_of_isPosition (x : Half) {p : BitVec 6} (h : isPosition p) :
    positionBit x p = x.getLsbD (32 - p.toNat) := if_pos h

/-- A position's bit commutes with exclusive-or. -/
theorem positionBit_xor (x y : Half) {p : BitVec 6} (h : isPosition p) :
    positionBit (x ^^^ y) p = (positionBit x p ^^ positionBit y p) := by
  simp only [positionBit_of_isPosition _ h, BitVec.getLsbD_xor]

/-- Output bit `m-1-i` takes the input bit that entry `i` names. -/
theorem selectBits_getLsbD {m : Nat} (table : Vector (BitVec 6) m) (x : Half) (i : Fin m) :
    (selectBits table x).getLsbD (m - 1 - i) = positionBit x table[i] := by
  have hi : m - 1 - i.val < m := by omega
  rw [selectBits, BitVec.getLsbD_ofFnBE, dif_pos hi]
  congr 1
  have : Fin.rev ⟨m - 1 - i.val, hi⟩ = i := by
    apply Fin.ext
    simp only [Fin.val_rev]
    omega
  rw [this]

/-- Two words selected by one table are equal when each entry selects equal bits. -/
theorem selectBits_ext {m : Nat} {table : Vector (BitVec 6) m} {x y : Half}
    (h : ∀ i : Fin m, positionBit x table[i] = positionBit y table[i]) :
    selectBits table x = selectBits table y := by
  unfold selectBits
  congr 1
  funext i
  exact h i

/-- The high field of a concatenation, whatever width the concatenation is given at. -/
theorem extract_append_high {m n w : Nat} (h : w = m + n) (x : BitVec m) (y : BitVec n) :
    ((x ++ y).cast h.symm).extractLsb' n m = x := by
  subst h
  ext i hi
  simp [BitVec.getLsbD_append, hi]

/-- The low field of a concatenation. -/
theorem extract_append_low {m n w : Nat} (h : w = m + n) (x : BitVec m) (y : BitVec n) :
    ((x ++ y).cast h.symm).extractLsb' 0 n = y := by
  subst h
  ext i hi
  simp [BitVec.getLsbD_append, hi]

/-- The S-box ROM read at `j ‖ s` is S-box `j + 1` at `s`. -/
theorem romRead_append (t : Tables) (j : BitVec 3) (s : BitVec 6) : romRead t (j ++ s) = sbox t j s := by
  have hj : (j ++ s : BitVec 9).extractLsb' 6 3 = j := extract_append_high (w := 9) rfl j s
  have hs : (j ++ s : BitVec 9).extractLsb' 0 6 = s := extract_append_low (w := 9) rfl j s
  simp only [romRead, hj, hs]

/-- 20_memory.md R51: the high half of `x ‖ y`. -/
@[simp] theorem highHalf_append (x y : Half) : highHalf (x ++ y) = x :=
  extract_append_high (w := 64) rfl x y

/-- 20_memory.md R51: the low half of `x ‖ y`. -/
@[simp] theorem lowHalf_append (x y : Half) : lowHalf (x ++ y) = y :=
  extract_append_low (w := 64) rfl x y

/-- A block is its two halves. -/
theorem append_halves (b : Block) : highHalf b ++ lowHalf b = b := by
  apply BitVec.eq_of_getLsbD_eq
  intro i hi
  have h := BitVec.getLsbD_append (x := highHalf b) (y := lowHalf b) (i := i)
  refine h.trans ?_
  by_cases hl : i < 32
  · simp [lowHalf, hl]
  · have hh : i - 32 < 32 := by omega
    have he : 32 + (i - 32) = i := by omega
    simp [highHalf, hl, hh, he]

end Sys2Proof.Machine
end

