-- ==== Sys2Proof/Laws/State.lean ====
section
/-!
SUPPORT. One lemma per field of State per update.
-/

namespace Sys2Proof.Machine

@[simp] theorem putY_op (s : State) (v : Block) : (s.putY v).op = s.op := rfl
@[simp] theorem putY_a (s : State) (v : Block) : (s.putY v).a = s.a := rfl
@[simp] theorem putY_k (s : State) (v : Block) : (s.putY v).k = s.k := rfl
@[simp] theorem putY_y (s : State) (v : Block) : (s.putY v).y = some v := rfl
@[simp] theorem putY_tables (s : State) (v : Block) : (s.putY v).tables = s.tables := rfl

@[simp] theorem present_op (s : State) (op : Port 3) (a : Port 64) (k : Port 56) :
    (s.present op a k).op = op := rfl
@[simp] theorem present_a (s : State) (op : Port 3) (a : Port 64) (k : Port 56) :
    (s.present op a k).a = a := rfl
@[simp] theorem present_k (s : State) (op : Port 3) (a : Port 64) (k : Port 56) :
    (s.present op a k).k = k := rfl
@[simp] theorem present_y (s : State) (op : Port 3) (a : Port 64) (k : Port 56) :
    (s.present op a k).y = s.y := rfl
@[simp] theorem present_tables (s : State) (op : Port 3) (a : Port 64) (k : Port 56) :
    (s.present op a k).tables = s.tables := rfl

@[simp] theorem assertReset_eq (s : State) : s.assertReset = s := rfl

/-- Writing `y` twice leaves the second value. -/
@[simp] theorem putY_putY (s : State) (v w : Block) : (s.putY v).putY w = s.putY w := rfl

/-- `outputNet` does not look at the recorded `y` (10_state.md R22). -/
@[simp] theorem outputNet_putY (s : State) (v : Block) : (s.putY v).outputNet = s.outputNet := rfl

@[simp] theorem opMissing_putY (s : State) (v : Block) : (s.putY v).opMissing = s.opMissing := rfl

end Sys2Proof.Machine
end

