-- ==== Sys2Proof/Laws/Ops.lean ====
section
/-!
SUPPORT. What the shared operations can do: driven lines, and the one evaluation every operation runs through.
-/

namespace Sys2Proof.Machine

theorem drive_value {n : Nat} (v : BitVec n) : (Port.drive v).value = v := rfl

theorem drive_driven {n : Nat} (v : BitVec n) : (Port.drive v).driven = BitVec.allOnes n := rfl

/-- A driven port is in its one form. -/
theorem drive_canonical {n : Nat} (v : BitVec n) : (Port.drive v).Canonical := by
  simp [Port.Canonical, Port.drive]

/-- A partly driven port is in its one form. -/
theorem driveOnly_canonical {n : Nat} (lines v : BitVec n) : (Port.driveOnly lines v).Canonical := by
  ext i hi
  simp [Port.driveOnly]

/-- Nothing is missing from a port whose every line is driven. -/
@[simp] theorem missing_drive {n : Nat} (v need : BitVec n) : (Port.drive v).missing need = 0 := by
  simp [Port.missing, Port.drive]

/-- A line is missing when it is needed and undriven. -/
theorem missing_getLsbD {n : Nat} (p : Port n) (need : BitVec n) (i : Nat) :
    (p.missing need).getLsbD i = (need.getLsbD i && !p.driven.getLsbD i) := by
  by_cases h : i < n
  · simp [Port.missing, h]
  · simp [Port.missing, BitVec.getLsbD_of_ge _ _ (Nat.le_of_not_lt h)]

/-- Nothing is missing exactly when every needed line is driven. -/
theorem missing_eq_zero_iff {n : Nat} (p : Port n) (need : BitVec n) :
    p.missing need = 0 ↔ ∀ i, need.getLsbD i = true → p.driven.getLsbD i = true := by
  constructor
  · intro h i hi
    have := missing_getLsbD p need i
    rw [h] at this
    simpa [hi] using this.symm
  · intro h
    apply BitVec.eq_of_getLsbD_eq
    intro i _
    rw [missing_getLsbD]
    cases hn : need.getLsbD i
    · simp
    · simp [h i hn]

/-- An evaluation whose read lines are all driven ends in a next state in which only `y` is written. -/
theorem evaluate_driven {op : OpCode} {a : Port 64} {k : Port 56} (v : Block) (s : State)
    (ha : a.missing (reads op).a = 0) (hk : k.missing (reads op).k = 0) :
    evaluate op a k v s = .next (s.putY v) := by
  simp [evaluate, undriven, ha, hk]

/-- An evaluation that reads an undriven line is refused by name. -/
theorem evaluate_undriven {op : OpCode} {a : Port 64} {k : Port 56} (v : Block) (s : State)
    (h : ¬(a.missing (reads op).a = 0 ∧ k.missing (reads op).k = 0)) :
    evaluate op a k v s =
      .refused (.undrivenInput op (a.missing (reads op).a) (k.missing (reads op).k)) := by
  simp only [evaluate, undriven]
  exact if_neg h

/-- Everything an evaluation that completes can do. -/
theorem evaluate_cases {op : OpCode} {a : Port 64} {k : Port 56} {v : Block} {s s' : State}
    (h : evaluate op a k v s = .next s') :
    a.missing (reads op).a = 0 ∧ k.missing (reads op).k = 0 ∧ s' = s.putY v := by
  by_cases hm : a.missing (reads op).a = 0 ∧ k.missing (reads op).k = 0
  · rw [evaluate_driven v s hm.1 hm.2] at h
    cases h
    exact ⟨hm.1, hm.2, rfl⟩
  · rw [evaluate_undriven v s hm] at h
    cases h

end Sys2Proof.Machine
end

