-- ==== Sys2Proof/Laws/Step.lean ====
section
/-!
SUPPORT. Every operation is one evaluation of `eval`, and everything a step can do.
-/

namespace Sys2Proof.Machine

/-- Decoding the operation code of ports gives an instruction on those ports with that code. -/
@[simp] theorem opcode_decodePorts (op : OpCode) (a : Port 64) (k : Port 56) :
    (decodePorts op a k).opcode = op := by
  obtain ⟨n⟩ := op
  fin_cases n <;> rfl

@[simp] theorem portA_decodePorts (op : OpCode) (a : Port 64) (k : Port 56) :
    (decodePorts op a k).portA = a := by
  unfold decodePorts
  split <;> rfl

@[simp] theorem portK_decodePorts (op : OpCode) (a : Port 64) (k : Port 56) :
    (decodePorts op a k).portK = k := by
  unfold decodePorts
  split <;> rfl

/-- Every operation is one evaluation of `eval` on its operand ports (00_scope.md section 5). -/
theorem exec_eq_evaluate (i : Instr) (s : State) :
    exec i s = evaluate i.opcode i.portA i.portK (eval s.tables i.opcode i.portA.value i.portK.value) s := by
  cases i <;> rfl

/-- Everything an operation that completes can do: only `y` is written. -/
theorem exec_cases {i : Instr} {s s' : State} (h : exec i s = .next s') :
    i.portA.missing (reads i.opcode).a = 0 ∧ i.portK.missing (reads i.opcode).k = 0 ∧
      s' = s.putY (eval s.tables i.opcode i.portA.value i.portK.value) :=
  evaluate_cases (exec_eq_evaluate i s ▸ h)

/-- A step whose operation is selected is the evaluation of the ports. -/
theorem step_of_driven {s : State} (h : s.opMissing = 0) :
    step s = evaluate s.op.value s.a s.k (eval s.tables s.op.value s.a.value s.k.value) s := by
  rw [step, if_pos h, exec_eq_evaluate]
  simp

/-- Everything a step that completes can do. -/
theorem step_cases {s s' : State} (h : step s = .next s') :
    s.opMissing = 0 ∧ s.a.missing (reads s.op.value).a = 0 ∧ s.k.missing (reads s.op.value).k = 0 ∧
      s' = s.putY (eval s.tables s.op.value s.a.value s.k.value) := by
  by_cases hm : s.opMissing = 0
  · rw [step_of_driven hm] at h
    exact ⟨hm, evaluate_cases h⟩
  · rw [step, if_neg hm] at h
    cases h

end Sys2Proof.Machine
end

