-- ==== Sys2Proof/Laws/Decode.lean ====
section
/-!
SUPPORT. The fields of an operation word put together from its three fields (30_encoding.md R70).
-/

namespace Sys2Proof

open Sys2Proof.Machine

/-- The operation field of `op ‖ k ‖ a`. -/
theorem wordOp_append (op : OpCode) (k : Key) (a : Block) : wordOp (op ++ k ++ a) = op := by
  apply BitVec.eq_of_getLsbD_eq
  intro i hi
  have h1 := BitVec.getLsbD_append (x := op ++ k) (y := a) (i := 120 + i)
  have h2 := BitVec.getLsbD_append (x := op) (y := k) (i := 120 + i - 64)
  rw [if_neg (by omega)] at h1 h2
  rw [wordOp, BitVec.getLsbD_extractLsb']
  simp only [hi, decide_true, Bool.true_and]
  refine h1.trans (h2.trans ?_)
  congr 1
  omega

/-- The key field of `op ‖ k ‖ a`. -/
theorem wordK_append (op : OpCode) (k : Key) (a : Block) : wordK (op ++ k ++ a) = k := by
  apply BitVec.eq_of_getLsbD_eq
  intro i hi
  have h1 := BitVec.getLsbD_append (x := op ++ k) (y := a) (i := 64 + i)
  have h2 := BitVec.getLsbD_append (x := op) (y := k) (i := 64 + i - 64)
  rw [if_neg (by omega)] at h1
  rw [if_pos (by omega)] at h2
  rw [wordK, BitVec.getLsbD_extractLsb']
  simp only [hi, decide_true, Bool.true_and]
  refine h1.trans (h2.trans ?_)
  congr 1
  omega

/-- The data field of `op ‖ k ‖ a`. -/
theorem wordA_append (op : OpCode) (k : Key) (a : Block) : wordA (op ++ k ++ a) = a :=
  extract_append_low (w := 123) (m := 59) rfl (op ++ k) a

/-- A word put together from its fields decodes to the operation on those fields. -/
theorem decodeWord_append (op : OpCode) (k : Key) (a : Block) :
    decodeWord (op ++ k ++ a) = decodePorts op (.drive a) (.drive k) := by
  rw [decodeWord, wordOp_append, wordK_append, wordA_append]

/-- An instruction is well formed when every line of both operand ports is driven. -/
theorem wellFormed_iff (i : Instr) :
    i.WellFormed ↔ i.portA.driven = BitVec.allOnes 64 ∧ i.portK.driven = BitVec.allOnes 56 := by
  unfold Instr.WellFormed Instr.formErrors
  split <;> split <;> simp_all

end Sys2Proof
end

