-- ==== Sys2Proof/Laws/HostMove.lean ====
section
/-!
SUPPORT. Driven lines as masks, and everything a host move can do.
-/

namespace Sys2Proof.Machine

/-- The lines `p[hi:lo]` are driven exactly when none of the mask of those lines is missing. -/
theorem linesDriven_iff_missing {n : Nat} (p : Port n) (mask : BitVec n) (hi lo : Nat)
    (hm : ∀ i, mask.getLsbD i = (decide (lo ≤ i) && decide (i ≤ hi))) :
    linesDriven p hi lo ↔ p.missing mask = 0 := by
  rw [missing_eq_zero_iff]
  simp only [hm, Bool.and_eq_true, decide_eq_true_eq]
  exact ⟨fun h i hh => h i hh.1 hh.2, fun h i a b => h i ⟨a, b⟩⟩

/-- Everything a host move that completes can do: a reset signal changes nothing, and an evaluation drives the input
ports and writes `y`. -/
theorem hostMove_cases {m : HostMove} {s s' : State} (h : hostMove m s = .next s') :
    (m = .reset ∧ s' = s) ∨
    ∃ op a k, m = .evaluate op a k ∧ op.missing (BitVec.allOnes 3) = 0 ∧
      a.missing (reads op.value).a = 0 ∧ k.missing (reads op.value).k = 0 ∧
      s' = (s.present op a k).putY (eval s.tables op.value a.value k.value) := by
  cases m with
  | reset =>
    cases h
    exact .inl ⟨rfl, rfl⟩
  | evaluate op a k =>
    obtain ⟨h0, ha, hk, hs⟩ := step_cases (s := s.present op a k) h
    exact .inr ⟨op, a, k, rfl, h0, ha, hk, hs⟩

end Sys2Proof.Machine
end

