-- ==== Sys2Proof/Laws/HostProgram.lean ====
section
/-!
SUPPORT. What a named value reads as after another is named.
-/

namespace Sys2Proof.Machine

/-- Naming `v` leaves every other name as it was. -/
theorem lookup_nameValue_ne {u v : String} (h : u ≠ v) (x : Block) (names : List (String × Block)) :
    (nameValue v x names).lookup u = names.lookup u := by
  unfold nameValue
  induction names with
  | nil => simp [List.lookup, beq_eq_false_iff_ne.2 h]
  | cons p names ih =>
    obtain ⟨n, y⟩ := p
    simp only [List.filter_cons, List.lookup_cons]
    by_cases hn : n = v
    · subst hn
      simp [ih, beq_eq_false_iff_ne.2 h]
    · simp [hn, List.lookup_cons, ih]

/-- `v` names the value it was last given. -/
theorem lookup_nameValue_self (v : String) (x : Block) (names : List (String × Block)) :
    (nameValue v x names).lookup v = some x := by
  unfold nameValue
  induction names with
  | nil => simp
  | cons p names ih =>
    obtain ⟨n, y⟩ := p
    simp only [List.filter_cons]
    by_cases hn : n = v
    · subst hn
      simpa using ih
    · simp [hn, List.lookup_cons, ih, beq_eq_false_iff_ne.2 (Ne.symm hn)]

end Sys2Proof.Machine
end

