-- ==== Sys2Proof/Laws/PerInstr.lean ====
section
/-!
SUPPORT. The per-instruction family Reassembly: an instruction is put together again from its operation code and its
operand ports, so that decoding the ports' fields drops none of them (30_encoding.md R70, R72).
-/

def Sys2Proof.Laws.Reassembly.Statement (i : Sys2Proof.Instr) : Prop :=
  Sys2Proof.decodePorts i.opcode i.portA i.portK = i

namespace Sys2Proof.Laws.Reassembly

theorem expand (a : Port 64) (k : Port 56) : Statement (.expand a k) := rfl
theorem subst (a : Port 64) (k : Port 56) : Statement (.subst a k) := rfl
theorem permute (a : Port 64) (k : Port 56) : Statement (.permute a k) := rfl
theorem sbox (a : Port 64) (k : Port 56) : Statement (.sbox a k) := rfl
theorem feistel (a : Port 64) (k : Port 56) : Statement (.feistel a k) := rfl
theorem subkey1 (a : Port 64) (k : Port 56) : Statement (.subkey1 a k) := rfl
theorem subkey2 (a : Port 64) (k : Port 56) : Statement (.subkey2 a k) := rfl
theorem enc2 (a : Port 64) (k : Port 56) : Statement (.enc2 a k) := rfl

end Sys2Proof.Laws.Reassembly
end

