-- ==== Sys2Proof/Laws/System.lean ====
section
/-!
SUPPORT. Everything a move on one unit of a system can do, and what moves at the same time answer.
-/

namespace Sys2Proof.Machine

/-- A move on unit `i` completes exactly when it completes on that unit's state, and it replaces that state alone. -/
theorem systemMove_eq_next {n : Nat} {i : Fin n} {m : HostMove} {sys sys' : System n} :
    systemMove i m sys = .next sys' ↔ ∃ s', hostMove m sys[i] = .next s' ∧ sys' = sys.set i s' := by
  unfold systemMove
  cases hostMove m sys[i] with
  | next s => simp [eq_comm]
  | fault f => cases f
  | refused r => simp

/-- A move on unit `i` is refused exactly when that unit's state refuses it. -/
theorem systemMove_eq_refused {n : Nat} {i : Fin n} {m : HostMove} {sys : System n} {r : Refusal} :
    systemMove i m sys = .refused r ↔ hostMove m sys[i] = .refused r := by
  unfold systemMove
  cases hostMove m sys[i] with
  | next s => simp
  | fault f => cases f
  | refused r => simp

/-- A unit that was given a new state holds it. -/
theorem system_set_self {n : Nat} (sys : System n) (i : Fin n) (s : State) : (sys.set i s)[i] = s := by
  simp

/-- Every other unit holds what it held. -/
theorem system_set_ne {n : Nat} (sys : System n) {i j : Fin n} (s : State) (h : j ≠ i) :
    (sys.set i s)[j] = sys[j] := by
  have : i.val ≠ j.val := fun e => h (Fin.ext e.symm)
  simp [this]

/-- What unit `j` answers when all make their moves at the same time: its own move's outcome on its own state. -/
theorem simultaneousMoves_getElem {n : Nat} (moves : Vector (Option HostMove) n) (sys : System n) (j : Fin n) :
    (simultaneousMoves moves sys)[j] =
      match moves[j] with
      | some m => hostMove m sys[j]
      | none => .next sys[j] :=
  Vector.getElem_ofFn j.isLt

end Sys2Proof.Machine
end

