-- ==== Sys2Proof/Tests/Slice0.lean ====
section
/-!
SUPPORT. The model's own tests. Expected values are those of 95_test_vectors.md (V1-V58, the refusal vectors) and of the
rules' own examples; words are written out from 30_encoding.md R70. The second half gives, for every statement with
hypotheses, a state and operands that meet them (`witness_`).
-/

namespace Sys2Proof.Tests

open Sys2Proof.Machine

/-! ### Helpers -/

/-- The `y` of an outcome. -/
def yOf (o : Host.Outcome State Fault Refusal) : Option Block :=
  match o with
  | .next s => s.y
  | .refused _ => none

/-- The refusal of an outcome. -/
def refusalOf (o : Host.Outcome State Fault Refusal) : Option Refusal :=
  match o with
  | .next _ => none
  | .refused r => some r

/-- `y` after one step from reset with a word on the ports. -/
def stepY (w : Nat) : Option Block := yOf (step (State.reset.withFetchWord 123 w))

/-- `y` after one instruction on the reset state. -/
def execY (i : Instr) : Option Block := yOf (exec i State.reset)

/-! ### Well-formedness -/

theorem test_driven_instr_is_well_formed : (Instr.expand (.drive 1) (.drive 2)).WellFormed := by decide

theorem test_undriven_a_is_ill_formed :
    (Instr.subkey1 (.driveOnly 0x7FFFFFFFFFFFFFFF 0) (.drive 2)).formErrors =
      [.undrivenA 0x8000000000000000] := by decide

theorem test_undriven_k_is_ill_formed :
    (Instr.expand (.drive 1) (.driveOnly 0xFFFFFFFFFFFFFE 0)).formErrors = [.undrivenK 1] := by decide

/-! ### Decoding: one word per operation, its fields placed as R70 places them -/

theorem test_decode_expand :
    decodeTableWord 123 (0b000 <<< 120 ||| 0xFFFFFFFFFFFFFF <<< 64 ||| 0x8000000000000001) =
      some (.expand (.drive 0x8000000000000001) (.drive 0xFFFFFFFFFFFFFF)) := by decide

theorem test_decode_subst :
    decodeTableWord 123 (0b001 <<< 120 ||| 0x80000000000000 <<< 64 ||| 0xFFFFFFFFFFFFFFFF) =
      some (.subst (.drive 0xFFFFFFFFFFFFFFFF) (.drive 0x80000000000000)) := by decide

theorem test_decode_permute :
    decodeTableWord 123 (0b010 <<< 120 ||| 0x00000000000001 <<< 64 ||| 0) =
      some (.permute (.drive 0) (.drive 1)) := by decide

theorem test_decode_sbox :
    decodeTableWord 123 (0b011 <<< 120 ||| 0 <<< 64 ||| 0x1FF) = some (.sbox (.drive 0x1FF) (.drive 0)) := by
  decide

/-- The example of R77. -/
theorem test_decode_feistel :
    decodeTableWord 123 0x4003333333333330000000087654321 =
      some (.feistel (.drive 0x87654321) (.drive 0x333333333333)) := by decide

theorem test_decode_subkey1 :
    decodeTableWord 123 (0b101 <<< 120 ||| 0x0123456789ABCD <<< 64) =
      some (.subkey1 (.drive 0) (.drive 0x0123456789ABCD)) := by decide

theorem test_decode_subkey2 :
    decodeTableWord 123 (0b110 <<< 120 ||| 0x0123456789ABCD <<< 64) =
      some (.subkey2 (.drive 0) (.drive 0x0123456789ABCD)) := by decide

theorem test_decode_enc2 :
    decodeTableWord 128 (0b111 <<< 120 ||| 0x0123456789ABCD <<< 64 ||| 0x0123456789ABCDEF) =
      some (.enc2 (.drive 0x0123456789ABCDEF) (.drive 0x0123456789ABCD)) := by decide

/-- R71: a word has 123 bits. -/
theorem test_decode_refuses_longer : decodeBits 124 (1 <<< 123) = .error .longerThanWord := by decide

/-- The example of R77, the other way. -/
theorem test_encode_feistel :
    encode (.feistel (.drive 0x87654321) (.drive 0x333333333333)) = 0x4003333333333330000000087654321 := by
  decide

/-! ### Results: vectors of 95_test_vectors.md, one step each -/

/-- V6. -/
theorem test_expand_example : stepY 0x0000000000000000000000087654321 = some 0x0000C0EB0AA06903 := by
  decide +kernel

/-- V7: a[63:32] ignored. -/
theorem test_expand_ignores_high_half : stepY 0x000000000000000FFFFFFFF00000000 = some 0 := by decide +kernel

/-- V11. -/
theorem test_subst_example : stepY 0x1000000000000000000F3D839935A30 = some 0x000000005EDC11C0 := by
  decide +kernel

/-- V12: every chunk 0x01. -/
theorem test_subst_chunk_order : stepY 0x1000000000000000000041041041041 = some 0x0000000003DDEAD1 := by
  decide +kernel

/-- V20. -/
theorem test_permute_example : stepY 0x200000000000000000000005EDC11C0 = some 0x000000006419B153 := by
  decide +kernel

/-- V17: position 32 goes to position 21. -/
theorem test_permute_low_bit : stepY 0x2000000000000000000000000000001 = some 0x0000000000000800 := by
  decide +kernel

/-- V29: the last address. -/
theorem test_sbox_last : stepY 0x30000000000000000000000000001FF = some 0xB := by decide +kernel

/-- V31: a[63:9] ignored. -/
theorem test_sbox_ignores_high_bits : stepY 0x300000000000000FFFFFFFFFFFFFE01 = some 0x0 := by decide +kernel

/-- V36. -/
theorem test_feistel_mixed : stepY 0x4000123456789AB0000000012345678 = some 0x000000008F4439DB := by
  decide +kernel

/-- V37: k[55:48] ignored. -/
theorem test_feistel_ignores_high_key : stepY 0x4FF3333333333330000000087654321 = some 0x00000000572A8260 := by
  decide +kernel

/-- V41. -/
theorem test_subkey1_example : stepY 0x50123456789ABCD0000000000000000 = some 0x000023456789ABCD := by
  decide +kernel

/-- V43: the top byte is dropped. -/
theorem test_subkey1_drops_top_byte : stepY 0x5FF0000000000000000000000000000 = some 0 := by decide +kernel

/-- V42. -/
theorem test_subkey2_example : stepY 0x60123456789ABCD0000000000000000 = some 0x00000123456789AB := by
  decide +kernel

/-- V46: the low byte is shifted out. -/
theorem test_subkey2_drops_low_byte : stepY 0x6000000000000FF0000000000000000 = some 0 := by decide +kernel

/-- V51: the rules' answer to the known-answer inputs (90_conflicts.md C4). -/
theorem test_enc2_example : stepY 0x7333333333333331234567887654321 = some 0x451ED41889B1DCF5 := by
  decide +kernel

/-- V54: K1 and K2 differ. -/
theorem test_enc2_distinct_subkeys : stepY 0x70123456789ABCD0123456789ABCDEF = some 0xDB5BB5EB2BD82975 := by
  decide +kernel

/-! ### Refusals: the refusal vectors of 95_test_vectors.md -/

theorem test_feistel_refused_without_key :
    refusalOf (exec (.feistel (.drive 0x87654321) (.floating 56)) State.reset) =
      some (.undrivenInput 4 0 0xFFFFFFFFFFFF) := by decide

theorem test_feistel_runs_without_high_key :
    execY (.feistel (.drive 0x87654321) (.driveOnly 0xFFFFFFFFFFFF 0x333333333333)) = some 0x572A8260 := by
  decide +kernel

theorem test_sbox_runs_without_high_bits :
    execY (.sbox (.driveOnly 0x1FF 0x1FF) (.floating 56)) = some 0xB := by decide +kernel

theorem test_enc2_refused_with_one_bit_undriven :
    refusalOf (exec (.enc2 (.driveOnly 0x7FFFFFFFFFFFFFFF 0) (.drive 0)) State.reset) =
      some (.undrivenInput 7 0x8000000000000000 0) := by decide

theorem test_reset_step_is_refused : refusalOf (step State.reset) = some (.undrivenOp 0b111) := by decide

/-! ### Tables -/

/-- 95_test_vectors.md E2: the row of input difference 0x0C of S1. -/
theorem test_s1_difference_row :
    (List.finRange 16).map (fun δ => differenceCount fipsTables 0 0x0C (BitVec.ofFin δ)) =
      [0, 0, 0, 8, 0, 6, 6, 0, 0, 6, 6, 4, 6, 6, 14, 2] := by decide +kernel

/-! ### Host notation -/

theorem test_pseudo_sbox : assembleText ["SBOX1 0x0C".toList] = .ok [0x300000000000000000000000000000C] := by
  decide +kernel

theorem test_pseudo_encrypt :
    assembleText ["ENCRYPT 0x0123456789ABCDEF, 0x0123456789ABCD".toList] =
      .ok [0x70123456789ABCD0123456789ABCDEF] := by decide +kernel

theorem test_pseudo_roundf_checks_key :
    assembleText ["ROUNDF 0x1, 0x1000000000000".toList] = .error .outOfRange := by decide +kernel

theorem test_asm_wide_value : assembleText ["EXPAND a=0x10000000000000000".toList] = .error .valueTooWide := by
  decide +kernel

theorem test_asm_unknown : assembleText ["SBOX9 0x0C".toList] = .error .unknownMnemonic := by decide +kernel

/-- Both ends of each row of digits, and the characters beside them. -/
theorem test_hex_digits :
    ['0', '9', 'A', 'F', 'a', 'f'].map hexDigit = [some 0, some 9, some 10, some 15, some 10, some 15] ∧
    ['/', ':', '@', 'G', 'g'].map hexDigit = [none, none, none, none, none] := by decide

/-- Program 1's first two statements, up to `f`. -/
theorem test_host_statements :
    programObservation
      [.operation "e" 0 (.value 0x87654321) (.value 0) 0 0,
       .compute "f" (.xor (.named "e") (.value 0x333333333333)),
       .check (.named "f") (.value 0xF3D839935A30) true] State.reset =
      .ok ([0xC0EB0AA06903], [("e", 0xC0EB0AA06903), ("f", 0xF3D839935A30)]) := by decide +kernel

/-! ### Witnesses: states and operands that meet the statements' hypotheses -/

/-- The reset state with the known-answer inputs on the ports. -/
def wired : State := State.reset.withFetchWord 123 0x7333333333333331234567887654321

theorem witness_default_tables : fipsTables.WF ∧ fipsTables.PromOnce := by decide +kernel

theorem wired_inv : Inv wired :=
  ⟨witness_default_tables.1, witness_default_tables.2, drive_canonical _, drive_canonical _, drive_canonical _,
    Or.inl rfl⟩

theorem reset_inv : Inv State.reset :=
  ⟨witness_default_tables.1, witness_default_tables.2, by decide, by decide, by decide, Or.inl rfl⟩

theorem witness_StepKeepsInvariant : Inv wired ∧ ∃ s', step wired = .next s' := ⟨wired_inv, _, rfl⟩

theorem witness_RunsKeepInvariant :
    (∀ op a k, HostMove.evaluate op a k ∈ [HostMove.reset, .evaluate (.drive 0) (.drive 1) (.floating 56)] →
      op.Canonical ∧ a.Canonical ∧ k.Canonical) ∧
    Inv State.reset ∧
    ∃ s', runMoves [.reset, .evaluate (.drive 0) (.drive 1) (.floating 56)] State.reset = .next s' := by
  refine ⟨?_, reset_inv, _, rfl⟩
  intro op a k h
  simp only [List.mem_cons, reduceCtorEq, HostMove.evaluate.injEq, List.not_mem_nil, or_false,
    false_or] at h
  obtain ⟨rfl, rfl, rfl⟩ := h
  exact ⟨drive_canonical _, drive_canonical _, by decide⟩

theorem witness_ResetSignalHasNoEffect :
    ∃ s', hostMove (.evaluate (.drive 7) (.drive 0) (.drive 0)) State.reset = .next s' := ⟨_, rfl⟩

theorem witness_DecodeOfEncode : (Instr.enc2 (.drive 0) (.drive 0)).WellFormed := by decide

theorem witness_EveryWordIsOneOperation :
    (Instr.sbox (.drive 0x1FF) (.drive 0)).WellFormed ∧
      encode (.sbox (.drive 0x1FF) (.drive 0)) = 0x30000000000000000000000000001FF := by decide

/-- The lowest and the highest bit of each field. -/
theorem witness_WordFieldsArePorts :
    (decodeWord 0x4000000000000000000000000000000).opcode.getLsbD 2 = true ∧
    (decodeWord 0x1000000000000000000000000000000).opcode.getLsbD 0 = true ∧
    (decodeWord 0x0800000000000000000000000000000).portK.value.getLsbD 55 = true ∧
    (decodeWord 0x0000000000000010000000000000000).portK.value.getLsbD 0 = true ∧
    (decodeWord 0x0000000000000008000000000000000).portA.value.getLsbD 63 = true ∧
    (decodeWord 0x0000000000000000000000000000001).portA.value.getLsbD 0 = true := by decide

/-- The bits where the operations' ranges end. -/
theorem witness_ReadsFollowOperationMap :
    (reads 0).a.getLsbD 31 = true ∧ (reads 0).a.getLsbD 32 = false ∧ (reads 3).a.getLsbD 8 = true ∧
    (reads 3).a.getLsbD 9 = false ∧ (reads 6).k.getLsbD 7 = false ∧ (reads 6).k.getLsbD 8 = true ∧
    (reads 4).k.getLsbD 47 = true ∧ (reads 4).k.getLsbD 48 = false := by decide

/-- Every line of a driven port is driven. -/
theorem linesDriven_drive {n : Nat} (v : BitVec n) (hi lo : Nat) (h : hi < n) :
    linesDriven (.drive v) hi lo := by
  intro i _ hi'
  have : i < n := by omega
  simp [drive_driven, this]

/-- Driving the lines of a mask drives the lines the mask covers. -/
theorem linesDriven_driveOnly {n : Nat} (mask v : BitVec n) (hi lo : Nat)
    (h : ∀ i : Fin (hi + 1), lo ≤ i.val → mask.getLsbD i = true) : linesDriven (.driveOnly mask v) hi lo :=
  fun i hl hi' => h ⟨i, by omega⟩ hl

/-- One undriven line is enough. -/
theorem not_linesDriven {n : Nat} (p : Port n) (hi lo i : Nat) (hl : lo ≤ i) (hh : i ≤ hi)
    (h : p.driven.getLsbD i = false) : ¬linesDriven p hi lo := by
  intro hd
  have := hd i hl hh
  simp [h] at this

theorem witness_StepRunsPortsOperation : linesDriven wired.op 2 0 := linesDriven_drive _ _ _ (by decide)

theorem witness_StepRunsPresentedWord :
    decodeTableWord 123 0x30000000000000000000000000001FF = some (.sbox (.drive 0x1FF) (.drive 0)) := by decide

/-- Only line 2 of `op` is undriven. -/
theorem witness_undriven_op : ¬linesDriven (Port.driveOnly 0b011 (0 : BitVec 3)) 2 0 :=
  not_linesDriven _ _ _ 2 (by decide) (by decide) (by decide)

/-- EXPAND with line a[31] undriven, ENC2 with line k[0] undriven. -/
theorem witness_undriven_input :
    ((reads 0).a.getLsbD 31 = true ∧ (Port.driveOnly 0x7FFFFFFF (0 : Block)).driven.getLsbD 31 = false) ∧
    ((reads 7).k.getLsbD 0 = true ∧ (Port.driveOnly 0xFFFFFFFFFFFFFE (0 : Key)).driven.getLsbD 0 = false) ∧
    linesDriven (Port.drive (0 : OpCode)) 2 0 :=
  ⟨by decide, by decide, linesDriven_drive _ _ _ (by decide)⟩

/-- FEISTEL with exactly the lines it reads driven (also for `EveryOperationProducesResult`). -/
theorem witness_driven_input :
    linesDriven (Port.drive (4 : OpCode)) 2 0 ∧
    (∀ n : Fin 64, (reads 4).a.getLsbD n = true →
      (Port.driveOnly 0xFFFFFFFF (0x87654321 : Block)).driven.getLsbD n = true) ∧
    (∀ n : Fin 56, (reads 4).k.getLsbD n = true →
      (Port.driveOnly 0xFFFFFFFFFFFF (0x333333333333 : Key)).driven.getLsbD n = true) :=
  ⟨linesDriven_drive _ _ _ (by decide), by decide, by decide⟩

theorem witness_refused_move :
    hostMove (.evaluate (.drive 0) (.floating 64) (.drive 0)) State.reset =
      .refused (.undrivenInput 0 0xFFFFFFFF 0) := rfl

theorem witness_OperationWritesOnlyY : ∃ s', exec (.permute (.drive 5) (.floating 56)) State.reset = .next s' :=
  ⟨_, rfl⟩

theorem witness_RepeatedEvaluationGivesSameY : ∃ s', step wired = .next s' := ⟨_, rfl⟩

/-- Two different states with the same tables, an instruction that completes on them, and one that is refused. -/
theorem witness_ResultDependsOnArgumentsAlone :
    wired.tables = State.reset.tables ∧ wired ≠ State.reset ∧
    (∃ s', exec (.enc2 (.drive 1) (.drive 2)) wired = .next s') ∧
    (∃ r, exec (.enc2 (.drive 1) (.floating 56)) wired = .refused r) ∧
    (wired.putY 3).op = wired.op ∧ (wired.putY 3).a = wired.a ∧ (wired.putY 3).k = wired.k :=
  ⟨rfl, by decide, ⟨_, rfl⟩, ⟨_, rfl⟩, rfl, rfl, rfl⟩

/-- Two SBOX instructions that differ in unread bits, one of them undriven there. -/
theorem witness_UnreadBitsAreIgnored :
    agreeOn (reads 3).a (.drive 0xFFFFFFFFFFFFFE01) (.driveOnly 0x1FF 0x001) ∧
    agreeOn (reads 3).k (.drive 0) (.floating 56) := by
  have ha : ∀ i : Fin 64, (reads 3).a.getLsbD i = true →
      (Port.drive (0xFFFFFFFFFFFFFE01 : Block)).driven.getLsbD i =
        (Port.driveOnly 0x1FF (0x001 : Block)).driven.getLsbD i ∧
      (Port.drive (0xFFFFFFFFFFFFFE01 : Block)).value.getLsbD i =
        (Port.driveOnly 0x1FF (0x001 : Block)).value.getLsbD i := by decide
  refine ⟨fun i hi => ?_, fun i hi => ?_⟩
  · by_cases h : i < 64
    · exact ha ⟨i, h⟩ hi
    · rw [BitVec.getLsbD_of_ge _ _ (by omega)] at hi
      cases hi
  · have : (reads 3).k = 0 := by decide
    rw [this] at hi
    simp at hi

/-- Bits on both sides of the 4-bit result. -/
theorem witness_ResultIsZeroExtended :
    (∃ s', exec (.sbox (.drive 0) (.floating 56)) State.reset = .next s') ∧
    3 < resultWidth (Instr.sbox (.drive 0) (.floating 56)).opcode ∧
    resultWidth (Instr.sbox (.drive 0) (.floating 56)).opcode ≤ 4 := ⟨⟨_, rfl⟩, by decide, by decide⟩

/-- Exactly the read lines driven, and one read line undriven, at both ends of each range. -/
theorem witness_expand_permute_lines :
    linesDriven (Port.driveOnly 0xFFFFFFFF (0 : Block)) 31 0 ∧
    ¬linesDriven (Port.driveOnly 0x7FFFFFFF (0 : Block)) 31 0 ∧
    ¬linesDriven (Port.driveOnly 0xFFFFFFFE (0 : Block)) 31 0 :=
  ⟨linesDriven_driveOnly _ _ _ _ (by decide), not_linesDriven _ _ _ 31 (by decide) (by decide) (by decide),
    not_linesDriven _ _ _ 0 (by decide) (by decide) (by decide)⟩

theorem witness_subst_lines :
    linesDriven (Port.driveOnly 0xFFFFFFFFFFFF (0 : Block)) 47 0 ∧
    ¬linesDriven (Port.driveOnly 0x7FFFFFFFFFFF (0 : Block)) 47 0 :=
  ⟨linesDriven_driveOnly _ _ _ _ (by decide), not_linesDriven _ _ _ 47 (by decide) (by decide) (by decide)⟩

theorem witness_sbox_lines :
    linesDriven (Port.driveOnly 0x1FF (0 : Block)) 8 0 ∧ ¬linesDriven (Port.driveOnly 0x0FF (0 : Block)) 8 0 :=
  ⟨linesDriven_driveOnly _ _ _ _ (by decide), not_linesDriven _ _ _ 8 (by decide) (by decide) (by decide)⟩

theorem witness_feistel_subkey1_lines :
    linesDriven (Port.driveOnly 0xFFFFFFFFFFFF (0 : Key)) 47 0 ∧
    ¬linesDriven (Port.driveOnly 0x7FFFFFFFFFFF (0 : Key)) 47 0 :=
  ⟨linesDriven_driveOnly _ _ _ _ (by decide), not_linesDriven _ _ _ 47 (by decide) (by decide) (by decide)⟩

theorem witness_subkey2_lines :
    linesDriven (Port.driveOnly 0xFFFFFFFFFFFF00 (0 : Key)) 55 8 ∧
    ¬linesDriven (Port.driveOnly 0xFFFFFFFFFFFE00 (0 : Key)) 55 8 :=
  ⟨linesDriven_driveOnly _ _ _ _ (by decide), not_linesDriven _ _ _ 8 (by decide) (by decide) (by decide)⟩

theorem witness_enc2_lines :
    linesDriven (Port.drive (0 : Block)) 63 0 ∧ linesDriven (Port.drive (0 : Key)) 55 0 ∧
    ¬linesDriven (Port.driveOnly 0x7FFFFFFFFFFFFF (0 : Key)) 55 0 :=
  ⟨linesDriven_drive _ _ _ (by decide), linesDriven_drive _ _ _ (by decide),
    not_linesDriven _ _ _ 55 (by decide) (by decide) (by decide)⟩

/-- The `y` of an operation that completes (the clauses on the high bits of `y`). -/
theorem witness_operation_completes (a : Block) (k : Key) :
    (∃ y, exec (.expand (.drive a) (.drive k)) State.reset = .next (State.reset.putY y)) ∧
    (∃ y, exec (.subst (.drive a) (.drive k)) State.reset = .next (State.reset.putY y)) ∧
    (∃ y, exec (.permute (.drive a) (.drive k)) State.reset = .next (State.reset.putY y)) ∧
    (∃ y, exec (.sbox (.drive a) (.drive k)) State.reset = .next (State.reset.putY y)) ∧
    (∃ y, exec (.feistel (.drive a) (.drive k)) State.reset = .next (State.reset.putY y)) ∧
    (∃ y, exec (.subkey1 (.drive a) (.drive k)) State.reset = .next (State.reset.putY y)) ∧
    (∃ y, exec (.subkey2 (.drive a) (.drive k)) State.reset = .next (State.reset.putY y)) ∧
    (∃ y, exec (.enc2 (.drive a) (.drive k)) State.reset = .next (State.reset.putY y)) := by
  refine ⟨?_, ?_, ?_, ?_, ?_, ?_, ?_, ?_⟩ <;>
    exact ⟨_, evaluate_driven _ _ (missing_drive _ _) (missing_drive _ _)⟩

theorem witness_tables_are_default : State.reset.tables = fipsTables := rfl

/-- Chunks at both ends of the range. -/
theorem witness_ChunkIsSixBitField :
    chunk 1 0xFC0000000000 = 0x3F ∧ chunk 8 0x00000000003F = 0x3F ∧ chunk 2 0xFC0000000000 = 0 := by decide

/-- Two bank inputs that differ in chunk 8 only, and in chunk 1 only. -/
theorem witness_LanesAreIndependent :
    (∀ j : Fin 9, 1 ≤ j.val → j.val ≠ 8 → chunk j 0x000000000000 = chunk j 0x00000000003F) ∧
    (∀ j : Fin 9, 1 ≤ j.val → j.val ≠ 1 → chunk j 0x000000000000 = chunk j 0xFC0000000000) := by decide

/-- Two blocks that differ in chunk 8 only. -/
theorem witness_subst_one_chunk :
    ∀ n : Fin 64, ¬(48 - 6 * 8 ≤ n.val ∧ n.val ≤ 53 - 6 * 8) →
      (0x00 : Block).getLsbD n = (0x3F : Block).getLsbD n := by decide

theorem witness_sbox_same_address :
    (0xFFFFFFFFFFFFFE00 : Block).extractLsb' 0 9 = (0 : Block).extractLsb' 0 9 := by decide

theorem witness_feistel_same_subkey :
    (0xFF333333333333 : Key).extractLsb' 0 48 = (0x333333333333 : Key).extractLsb' 0 48 := by decide

/-- Keys that differ in K[7:0] only, and in K[55:48] only; keys with those bits alone; a key with K1 = K2. -/
theorem witness_SubkeysAreKeyFields :
    (∀ n : Fin 56, 8 ≤ n.val → (0xFF : Key).getLsbD n = (0 : Key).getLsbD n) ∧
    (∀ n : Fin 56, n.val < 48 → (0xFF000000000000 : Key).getLsbD n = (0 : Key).getLsbD n) ∧
    subkey1 0x33333333333333 = subkey2 0x33333333333333 := by decide

theorem witness_CipherIsInvertible :
    ∃ s1 s2, exec (.enc2 (.drive 7) (.drive 9)) State.reset = .next s1 ∧
      exec (.enc2 (.drive 7) (.drive 9)) State.reset = .next s2 ∧ s1.y = s2.y := ⟨_, _, rfl, rfl, rfl⟩

/-- Tables that satisfy the known-answer hypothesis: the default ones with some S-box entries changed. -/
def knownAnswerTables : Tables :=
  { erom := fipsErom
    prom := fipsProm
    srom := #v[(fipsSbox1.set 60 6).set 53 11, (fipsSbox2.set 61 6).set 35 1, (fipsSbox3.set 32 4).set 4 13,
      (fipsSbox4.set 57 11).set 58 10, (fipsSbox5.set 36 9).set 16 1, fipsSbox6.set 53 0,
      (fipsSbox7.set 40 2).set 47 10, (fipsSbox8.set 48 10).set 4 2] }

theorem witness_KnownAnswerIsHypothesisOnTables : KnownAnswer knownAnswerTables := by
  unfold KnownAnswer
  decide +kernel

theorem witness_RoundDifferenceIgnoresPostXor : (5 : Half) ^^^ 5 = 0 := by decide

theorem witness_RefusedRunHasNoObservation :
    (∃ s', runMoves [.evaluate (.drive 0) (.drive 1) (.floating 56)] State.reset = .next s' ∧
      hostMove (.evaluate (.drive 4) (.drive 1) (.floating 56)) s' =
        .refused (.undrivenInput 4 0 0xFFFFFFFFFFFF)) ∧
    (∃ r e, runProgram [] { unit := State.reset, names := [], ys := [] } = .ok r ∧
      runStmt (.operation "v" 4 (.value 1) (.value 0) 0 1) r = .error e ∧
      e = .refused (.undrivenInput 4 0 1)) :=
  ⟨⟨_, rfl, rfl⟩, _, _, rfl, rfl, rfl⟩

theorem witness_UnitsShareNothing :
    ∃ sys1 sys2, systemMove (n := 2) 0 (.evaluate (.drive 0) (.drive 1) (.floating 56))
        #v[State.reset, State.reset] = .next sys1 ∧
      systemMove 1 (.evaluate (.drive 2) (.drive 1) (.floating 56)) sys1 = .next sys2 ∧ (0 : Fin 2) ≠ 1 :=
  ⟨_, _, rfl, rfl, by decide⟩

/-- A refused move on one unit beside a move that completes on another. -/
theorem witness_units_one_refused :
    (∃ sys1, systemMove (n := 2) 1 (.evaluate (.drive 2) (.drive 1) (.floating 56))
      #v[State.reset, State.reset] = .next sys1) ∧
    systemMove (n := 2) 0 (.evaluate (.drive 4) (.drive 1) (.floating 56)) #v[State.reset, State.reset] =
      .refused (.undrivenInput 4 0 0xFFFFFFFFFFFF) :=
  ⟨⟨_, rfl⟩, rfl⟩

/-- Two of three units move at the same time, and the list that names their moves in the other order. -/
theorem witness_simultaneous_moves (m m' : HostMove) :
    ([((2 : Fin 3), m'), ((0 : Fin 3), m)].map Prod.fst).Nodup ∧
    ∀ i x, (i, x) ∈ [((2 : Fin 3), m'), ((0 : Fin 3), m)] ↔ (#v[some m, none, some m'])[i] = some x := by
  refine ⟨by simp, fun i x => ?_⟩
  fin_cases i <;> simp [eq_comm]

/-- The same moves at the same time: one completes, one unit makes none, one is refused, each on its own. -/
theorem test_simultaneous_moves :
    (simultaneousMoves #v[some (.evaluate (.drive 5) (.floating 64) (.drive 0xAB)), none,
        some (.evaluate (.drive 5) (.floating 64) (.floating 56))]
      #v[State.reset, State.reset, State.reset]).toList.map (fun o => (yOf o, refusalOf o)) =
    [(some 0xAB, none), (none, none), (none, some (.undrivenInput 5 0 0xFFFFFFFFFFFF))] := by decide +kernel

/-- The widest values that fit, and the first that do not. -/
theorem witness_LineAssemblesToWord :
    assemble (.operation 7 0xFFFFFFFFFFFFFFFF 0xFFFFFFFFFFFFFF) = .ok 0x7FFFFFFFFFFFFFFFFFFFFFFFFFFFFFF ∧
    assemble (.operation 0 0x10000000000000000 0) = .error .valueTooWide ∧
    assemble (.operation 0 0 0x100000000000000) = .error .valueTooWide := by decide +kernel

/-- The ends of the pseudo-operations' ranges. -/
theorem witness_PseudoOperationsExpand :
    (SourceLine.sboxN 1 0).expansion = .ok (3, 0, 0) ∧ (SourceLine.sboxN 8 0x3F).expansion = .ok (3, 0x1FF, 0) ∧
    (SourceLine.sboxN 0 0).expansion = .error .outOfRange ∧ (SourceLine.sboxN 9 0).expansion = .error .outOfRange ∧
    (SourceLine.sboxN 1 0x40).expansion = .error .outOfRange ∧
    (SourceLine.roundf 1 0xFFFFFFFFFFFF).expansion = .ok (4, 1, 0xFFFFFFFFFFFF) := by decide

/-- Operands that are named values, the widest key and the first that is too wide, an undriven bit that is read and a
name that was never given. -/
theorem witness_HostStatementsNameResults :
    ("u" : String) ≠ "v" ∧
    hostValue [("e", 0x0FFFFFFFFFFFFFFF)] (.named "e") = .ok 0x0FFFFFFFFFFFFFFF ∧
    hostValue [("e", 0x0FFFFFFFFFFFFFFF)] (.mask (.named "e") 56) = .ok 0x00FFFFFFFFFFFFFF ∧
    (0x00FFFFFFFFFFFFFF : Block).toNat < 2 ^ 56 ∧ 2 ^ 56 ≤ (0x0100000000000000 : Block).toNat ∧
    (reads 4).k &&& 0x800000000000 ≠ 0 ∧ (reads 4).a &&& 0x800000000000 = 0 ∧
    ([("e", 1)] : List (String × Block)).lookup "f" = none := by decide +kernel

/-- R79's host arithmetic: the mask of all ones, a shift of the whole width, a join, and a name given again. -/
theorem test_host_arithmetic :
    programObservation
      [.compute "x" (.mask (.value 0x123456789ABCDEF0) 64), .compute "x" (.shiftRight (.named "x") 32),
       .compute "z" (.shiftRight (.named "x") 64), .compute "j" (.join (.named "x") (.value 0x9ABCDEF0)),
       .check (.named "j") (.value 0x123456789ABCDEF1) false] State.reset =
      .ok ([], [("x", 0x12345678), ("z", 0), ("j", 0x123456789ABCDEF0)]) := by decide +kernel

end Sys2Proof.Tests
end

section
/-!
PROOF. 00_scope.md: what an operation's result depends on.
-/

namespace Sys2Proof.Machine

/-- The evaluations that complete: exactly those whose read lines are all driven, and they drive `eval` onto `y`. -/
theorem exec_eq_next_iff {i : Instr} {s s' : State} :
    exec i s = .next s' ↔
      i.portA.missing (reads i.opcode).a = 0 ∧ i.portK.missing (reads i.opcode).k = 0 ∧
        s' = s.putY (eval s.tables i.opcode i.portA.value i.portK.value) := by
  constructor
  · exact exec_cases
  · rintro ⟨ha, hk, rfl⟩
    rw [exec_eq_evaluate, evaluate_driven _ _ ha hk]

/-- The evaluations that are refused, and with what: the condition and the refusal name the instruction only. -/
theorem exec_eq_refused_iff {i : Instr} {s : State} {r : Refusal} :
    exec i s = .refused r ↔
      ¬(i.portA.missing (reads i.opcode).a = 0 ∧ i.portK.missing (reads i.opcode).k = 0) ∧
        r = .undrivenInput i.opcode (i.portA.missing (reads i.opcode).a)
          (i.portK.missing (reads i.opcode).k) := by
  rw [exec_eq_evaluate]
  by_cases hm : i.portA.missing (reads i.opcode).a = 0 ∧ i.portK.missing (reads i.opcode).k = 0
  · simp [evaluate_driven _ _ hm.1 hm.2, hm]
  · rw [evaluate_undriven _ _ hm, and_iff_right hm, Host.Outcome.refused.injEq, eq_comm]

/-- The output net is a function of the ports and the tables: the recorded `y` has no part in it (10_state.md R22). -/
theorem outputNet_congr {s t : State} (hop : s.op = t.op) (ha : s.a = t.a) (hk : s.k = t.k)
    (ht : s.tables = t.tables) : s.outputNet = t.outputNet := by
  unfold State.outputNet State.opMissing
  rw [hop, ha, hk, ht]

/-- Settles O19: a completed evaluation reads nothing of the state but the tables, and a refused one not even those. -/
theorem resultDependsOnArgumentsAlone : Obligations.ResultDependsOnArgumentsAlone := by
  unfold Obligations.ResultDependsOnArgumentsAlone
  refine ⟨?result, ?refusal, ?net⟩
  case result =>
    intro i s t htables s' h
    obtain ⟨ha, hk, rfl⟩ := exec_eq_next_iff.mp h
    exact ⟨_, exec_eq_next_iff.mpr ⟨ha, hk, rfl⟩, by simp [htables]⟩
  case refusal =>
    intro i s t r h
    exact exec_eq_refused_iff.mpr (exec_eq_refused_iff.mp h)
  case net =>
    intro s t
    exact outputNet_congr

end Sys2Proof.Machine
end

section
/-!
PROOF. 20_memory.md: repeating an evaluation.
-/

namespace Sys2Proof.Machine

/-- An evaluation overwrites the recorded `y` and reads nothing of it. -/
@[simp] theorem evaluate_putY (op : OpCode) (a : Port 64) (k : Port 56) (w v : Block) (s : State) :
    evaluate op a k w (s.putY v) = evaluate op a k w s := by
  simp only [evaluate, putY_putY]

@[simp] theorem exec_putY (i : Instr) (s : State) (v : Block) : exec i (s.putY v) = exec i s := by
  rw [exec_eq_evaluate, exec_eq_evaluate, putY_tables, evaluate_putY]

/-- A step answers alike, refusals included, whatever `y` was recorded before it (20_memory.md R55). -/
@[simp] theorem step_putY (s : State) (v : Block) : step (s.putY v) = step s := by
  simp only [step, opMissing_putY, putY_op, putY_a, putY_k, exec_putY]

/-- Settles O18: the state after a step is the state before it with `y` written, which the next step does not read. -/
theorem repeatedEvaluationGivesSameY : Obligations.RepeatedEvaluationGivesSameY := by
  unfold Obligations.RepeatedEvaluationGivesSameY
  intro s s' h
  obtain ⟨-, -, -, hy⟩ := step_cases h
  have hrepeat : step s' = .next s' := by
    rw [← h, hy, step_putY]
  exact ⟨hrepeat, _, by rw [hy, putY_y], hy⟩

end Sys2Proof.Machine
end

section
/-!
PROOF. 30_encoding.md: the operation word, its fields and the instruction it stands for (R70, R76).
-/

namespace Sys2Proof.Machine

@[simp] theorem opcode_decodeWord (w : OpWord) : (decodeWord w).opcode = wordOp w :=
  opcode_decodePorts ..

@[simp] theorem portA_decodeWord (w : OpWord) : (decodeWord w).portA = .drive (wordA w) :=
  portA_decodePorts ..

@[simp] theorem portK_decodeWord (w : OpWord) : (decodeWord w).portK = .drive (wordK w) :=
  portK_decodePorts ..

/-- Settles O9: each port of the decoded instruction is a field of the word, and bit `n` of a field that starts at bit
`start` is bit `start + n` of the word. -/
theorem wordFieldsArePorts : Obligations.WordFieldsArePorts := by
  unfold Obligations.WordFieldsArePorts
  intro w
  refine ⟨?op, ?k, ?a⟩
  case op =>
    intro n hn
    simp [wordOp, hn]
  case k =>
    intro n hn
    simp [drive_value, wordK, hn]
  case a =>
    intro n hn
    simp [drive_value, wordA, hn]

/-- R70: the three fields make up the word. -/
theorem append_wordFields (w : OpWord) : wordOp w ++ wordK w ++ wordA w = w := by
  have hopk : wordOp w ++ wordK w = w.extractLsb' 64 59 := BitVec.extractLsb'_append_extractLsb'_eq_extractLsb' rfl
  have hall : w.extractLsb' 64 59 ++ wordA w = w.extractLsb' 0 123 :=
    BitVec.extractLsb'_append_extractLsb'_eq_extractLsb' rfl
  rw [hopk, hall, BitVec.extractLsb'_eq_self]

theorem wellFormed_decodeWord (w : OpWord) : (decodeWord w).WellFormed := by
  simp [wellFormed_iff, drive_driven]

theorem encode_decodeWord (w : OpWord) : encode (decodeWord w) = w := by
  rw [encode, opcode_decodeWord, portK_decodeWord, portA_decodeWord, drive_value, drive_value, append_wordFields]

/-- An instruction is put together again from its operation code and its operand ports. -/
theorem decodePorts_fields : ∀ i : Instr, decodePorts i.opcode i.portA i.portK = i
  | .expand a k => Laws.Reassembly.expand a k
  | .subst a k => Laws.Reassembly.subst a k
  | .permute a k => Laws.Reassembly.permute a k
  | .sbox a k => Laws.Reassembly.sbox a k
  | .feistel a k => Laws.Reassembly.feistel a k
  | .subkey1 a k => Laws.Reassembly.subkey1 a k
  | .subkey2 a k => Laws.Reassembly.subkey2 a k
  | .enc2 a k => Laws.Reassembly.enc2 a k

/-- A port whose every line is driven is determined by its value. -/
theorem drive_value_of_driven {n : Nat} {p : Port n} (h : p.driven = BitVec.allOnes n) : .drive p.value = p := by
  rw [Port.drive, ← h]

/-- A word determines the well-formed instruction it encodes. -/
theorem decodeWord_encode {i : Instr} (h : i.WellFormed) : decodeWord (encode i) = i := by
  obtain ⟨ha, hk⟩ := (wellFormed_iff i).mp h
  rw [encode, decodeWord_append, drive_value_of_driven ha, drive_value_of_driven hk, decodePorts_fields]

/-- An operation word drives every line, so its operation completes in every state, with `eval` of the fields. -/
theorem exec_decodeWord (w : OpWord) (s : State) :
    exec (decodeWord w) s = .next (s.putY (eval s.tables (wordOp w) (wordA w) (wordK w))) :=
  exec_eq_next_iff.mpr (by simp [drive_value])

/-- Settles O8: `encode` and `decodeWord` are inverse to each other between the words and the well-formed instructions,
a word's operation always completes, and the word `op ‖ k ‖ a` has any fields asked for. -/
theorem everyWordIsOneOperation : Obligations.EveryWordIsOneOperation := by
  unfold Obligations.EveryWordIsOneOperation
  refine ⟨?oneInstruction, ?completes, ?everyField, ?boxNumber⟩
  case oneInstruction =>
    intro w
    refine ⟨wellFormed_decodeWord w, encode_decodeWord w, ?_⟩
    rintro i hi rfl
    exact (decodeWord_encode hi).symm
  case completes =>
    intro w s
    exact ⟨_, exec_decodeWord w s⟩
  case everyField =>
    intro op k a
    refine ⟨op ++ k ++ a, ?_⟩
    simp [wordOp_append, wordA_append, wordK_append]
  case boxNumber =>
    intro v
    have := (v.extractLsb' 6 3).isLt
    omega

end Sys2Proof.Machine
end

section
/-!
PROOF. 30_encoding.md: the bits an operation reads (R74) and the bits of `y` its result occupies (R75).
-/

namespace Sys2Proof.Machine

/-- Ports that agree on the lines of a mask have the same lines of it missing. -/
theorem missing_eq_of_agreeOn {n : Nat} {mask : BitVec n} {p q : Port n} (h : agreeOn mask p q) :
    p.missing mask = q.missing mask := by
  apply BitVec.eq_of_getLsbD_eq
  intro i _
  rw [missing_getLsbD, missing_getLsbD]
  cases hm : mask.getLsbD i
  · rfl
  · rw [(h i hm).1]

/-- Ports that agree on the lines of a mask carry the same value in every field the mask covers. -/
theorem field_eq_of_agreeOn {n : Nat} {mask : BitVec n} {p q : Port n} (h : agreeOn mask p q) (start len : Nat)
    (hcover : ∀ i : Fin len, mask.getLsbD (start + i) = true) :
    p.value.extractLsb' start len = q.value.extractLsb' start len := by
  apply BitVec.eq_of_getLsbD_eq
  intro i hi
  simp [hi, (h (start + i) (hcover ⟨i, hi⟩)).2]

/-- `eval` depends on the values of the bits that the operation reads and on no others: each operation takes from its
ports fields that its read mask covers. -/
theorem eval_eq_of_agreeOn {op : OpCode} {a b : Port 64} {k l : Port 56} (t : Tables)
    (ha : agreeOn (reads op).a a b) (hk : agreeOn (reads op).k k l) :
    eval t op a.value k.value = eval t op b.value l.value := by
  obtain ⟨n⟩ := op
  fin_cases n
  · -- EXPAND reads `a[31:0]`.
    exact congrArg (fun r => result (expand t r)) (field_eq_of_agreeOn ha 0 32 (by decide))
  · -- SUBST reads `a[47:0]`.
    exact congrArg (fun c => result (substitute t c)) (field_eq_of_agreeOn ha 0 48 (by decide))
  · -- PERMUTE reads `a[31:0]`.
    exact congrArg (fun o => result (permute t o)) (field_eq_of_agreeOn ha 0 32 (by decide))
  · -- SBOX reads `a[8:0]`.
    exact congrArg (fun address => result (romRead t address)) (field_eq_of_agreeOn ha 0 9 (by decide))
  · -- FEISTEL reads `a[31:0]` and `k[47:0]`.
    exact congrArg₂ (fun r key => result (feistel t r key)) (field_eq_of_agreeOn ha 0 32 (by decide))
      (field_eq_of_agreeOn hk 0 48 (by decide))
  · -- SUBKEY1 reads `k[47:0]`.
    exact congrArg result (field_eq_of_agreeOn hk 0 48 (by decide))
  · -- SUBKEY2 reads `k[55:8]`.
    exact congrArg result (field_eq_of_agreeOn hk 8 48 (by decide))
  · -- ENC2 reads both ports whole.
    have hp := field_eq_of_agreeOn ha 0 64 (by decide)
    have hkey := field_eq_of_agreeOn hk 0 56 (by decide)
    rw [BitVec.extractLsb'_eq_self, BitVec.extractLsb'_eq_self] at hp hkey
    exact congrArg₂ (fun p key => encryptTwoRound t key p) hp hkey

/-- Settles O20: the refusal depends on which read lines are missing, the result on the values of the read lines. -/
theorem unreadBitsAreIgnored : Obligations.UnreadBitsAreIgnored := by
  unfold Obligations.UnreadBitsAreIgnored
  intro i j s hop ha hk
  have hmissing : undriven i.opcode i.portA i.portK = undriven i.opcode j.portA j.portK := by
    rw [undriven, undriven, missing_eq_of_agreeOn ha, missing_eq_of_agreeOn hk]
  rw [exec_eq_evaluate, exec_eq_evaluate, ← hop, eval_eq_of_agreeOn s.tables ha hk, evaluate, evaluate, hmissing]

/-- The S-box ROM's address is `a[8:6] ‖ a[5:0]` (R112). -/
theorem romRead_extractLsb' (t : Tables) (a : Block) :
    romRead t (a.extractLsb' 0 9) = sbox t (a.extractLsb' 6 3) (a.extractLsb' 0 6) := by
  rw [romRead, BitVec.extractLsb'_extractLsb'_of_le (by decide), BitVec.extractLsb'_extractLsb'_of_le (by decide)]

/-- Every operation computes a result of its own width. -/
theorem operationValue_width (t : Tables) (i : Instr) : (operationValue t i).1 = resultWidth i.opcode := by
  cases i <;> rfl

/-- No result is wider than `y`. -/
theorem resultWidth_le (op : OpCode) : resultWidth op ≤ 64 := by
  unfold resultWidth
  split <;> decide

/-- R75: `eval` is the operation's value, zero-extended to the 64 bits of `y`. -/
theorem eval_eq_setWidth_operationValue (t : Tables) (i : Instr) :
    eval t i.opcode i.portA.value i.portK.value = (operationValue t i).2.setWidth 64 := by
  cases i with
  | sbox a k => exact congrArg result (romRead_extractLsb' t a.value)
  | enc2 a k => exact (BitVec.setWidth_eq _).symm
  | _ => rfl

/-- Settles O21: `y` is `eval` of the ports, which is the operation's value zero-extended. -/
theorem resultIsZeroExtended : Obligations.ResultIsZeroExtended := by
  unfold Obligations.ResultIsZeroExtended
  refine ⟨operationValue_width, ?_⟩
  intro i s s' h
  obtain ⟨-, -, rfl⟩ := exec_cases h
  refine ⟨_, putY_y .., eval_eq_setWidth_operationValue .., ?below, ?above⟩
  case below =>
    intro n hn
    have h64 : n < 64 := hn.trans_le (resultWidth_le _)
    simp [eval_eq_setWidth_operationValue, h64]
  case above =>
    intro n hn
    rw [← operationValue_width s.tables] at hn
    simp [eval_eq_setWidth_operationValue, hn]

end Sys2Proof.Machine
end

section
/-!
PROOF. 30_encoding.md: the pseudo-operations (R78).
-/

namespace Sys2Proof.Machine

/-- R77: a line whose operands are the values of a block and a key assembles to the word `op ‖ k ‖ a`. -/
theorem assemble_of_expansion {line : SourceLine} {op : OpCode} {a : Block} {k : Key}
    (h : line.expansion = .ok (op, a.toNat, k.toNat)) : assemble line = .ok (op ++ k ++ a) := by
  have hword : (op ++ k ++ a).toNat = op.toNat <<< 120 ||| k.toNat <<< 64 ||| a.toNat := by
    rw [BitVec.toNat_append, BitVec.toNat_append, Nat.shiftLeft_or_distrib, ← Nat.shiftLeft_add]
  simp only [assemble, h]
  rw [if_pos ⟨a.isLt, k.isLt⟩, ← hword, BitVec.ofNat_toNat, BitVec.setWidth_eq]

/-- Running the word that such a line assembles to puts `eval` of its operation code and operands on `y`. -/
theorem exec_assembled {line : SourceLine} {op : OpCode} {a : Block} {k : Key}
    (h : line.expansion = .ok (op, a.toNat, k.toNat)) (s : State) :
    ∃ w, assemble line = .ok w ∧ exec (decodeWord w) s = .next (s.putY (eval s.tables op a k)) :=
  ⟨_, assemble_of_expansion h, by rw [exec_decodeWord, wordOp_append, wordA_append, wordK_append]⟩

/-- A value held at a greater width is still the field at the low end. -/
theorem extractLsb'_setWidth_self {n w : Nat} (h : n ≤ w) (v : BitVec n) : (v.setWidth w).extractLsb' 0 n = v := by
  rw [BitVec.extractLsb'_setWidth_of_le (by omega), BitVec.extractLsb'_eq_self]

theorem expansion_sboxN {n v : Nat} (h1 : 1 ≤ n) (h8 : n ≤ 8) (hv : v ≤ 0x3F) :
    (SourceLine.sboxN n v).expansion = .ok (3, ((n - 1) <<< 6) ||| v, 0) :=
  if_pos ⟨h1, h8, hv⟩

theorem expansion_roundf (r : Nat) {key : Nat} (h : key < 2 ^ 48) :
    (SourceLine.roundf r key).expansion = .ok (4, r, key) :=
  if_pos h

/-- `SBOX<n> s` stands for SBOX at the ROM address `(n - 1) ‖ s`. -/
theorem expansion_sboxN_toNat (j : BitVec 3) (v : BitVec 6) :
    (SourceLine.sboxN (j.toNat + 1) v.toNat).expansion =
      .ok (3, ((j ++ v).setWidth 64).toNat, (0 : Key).toNat) := by
  have hj := j.isLt
  have hv := v.isLt
  rw [expansion_sboxN (by omega) (by omega) (by omega), BitVec.toNat_setWidth_of_le (by decide), BitVec.toNat_append]
  rfl

/-- `ROUNDF r, K` stands for FEISTEL on `r` and `K`, each at the low end of its port. -/
theorem expansion_roundf_toNat (r : Half) (key : Subkey) :
    (SourceLine.roundf r.toNat key.toNat).expansion = .ok (4, (r.setWidth 64).toNat, (key.setWidth 56).toNat) := by
  rw [expansion_roundf _ key.isLt, BitVec.toNat_setWidth_of_le (by decide), BitVec.toNat_setWidth_of_le (by decide)]

theorem eval_sbox_append (t : Tables) (j : BitVec 3) (v : BitVec 6) (k : Key) :
    eval t 3 ((j ++ v).setWidth 64) k = (sbox t j v).setWidth 64 := by
  change result (romRead t (((j ++ v).setWidth 64).extractLsb' 0 9)) = result (sbox t j v)
  rw [extractLsb'_setWidth_self (by decide), romRead_append]

theorem eval_feistel_setWidth (t : Tables) (r : Half) (key : Subkey) :
    eval t 4 (r.setWidth 64) (key.setWidth 56) = (feistel t r key).setWidth 64 := by
  change result (feistel t ((r.setWidth 64).extractLsb' 0 32) ((key.setWidth 56).extractLsb' 0 48)) =
    result (feistel t r key)
  rw [extractLsb'_setWidth_self (by decide), extractLsb'_setWidth_self (by decide)]

/-- Settles O50: each line expands to one operation on operands that fit the ports, and running the word of that
operation evaluates it on those operands. -/
theorem pseudoOperationsExpand : Obligations.PseudoOperationsExpand := by
  unfold Obligations.PseudoOperationsExpand
  refine ⟨fun _ _ => expansion_sboxN, fun r _ => expansion_roundf r, fun _ _ => rfl, ?sboxN, ?roundf, ?encrypt⟩
  case sboxN =>
    intro j v s
    rw [← eval_sbox_append s.tables j v 0]
    exact exec_assembled (expansion_sboxN_toNat j v) s
  case roundf =>
    intro r key s
    rw [← eval_feistel_setWidth s.tables r key]
    exact exec_assembled (expansion_roundf_toNat r key) s
  case encrypt =>
    intro p key s
    exact exec_assembled (line := .encrypt p.toNat key.toNat) (op := 7) rfl s

end Sys2Proof.Machine
end

section
/-!
PROOF. 40_primitives.md: what the operations that read a low field of `a` alone have in common (30_encoding.md R72).
-/

namespace Sys2Proof.Machine

/-- The lines `p[hi:lo]` of a port are driven exactly when none of their mask is missing; the mask is given line by
line of the port. -/
theorem linesDriven_iff_missing_of_lt {n hi lo : Nat} (p : Port n) {mask : BitVec n} (hhi : hi < n)
    (hm : ∀ i : Fin n, mask.getLsbD i = (decide (lo ≤ i.val) && decide (i.val ≤ hi))) :
    linesDriven p hi lo ↔ p.missing mask = 0 := by
  refine linesDriven_iff_missing p mask hi lo fun i => ?_
  by_cases hi' : i < n
  · exact hm ⟨i, hi'⟩
  · rw [BitVec.getLsbD_of_ge _ _ (Nat.le_of_not_lt hi'), decide_eq_false (by omega : ¬i ≤ hi), Bool.and_false]

/-- No line of an empty mask is missing. -/
@[simp] theorem missing_zero {n : Nat} (p : Port n) : p.missing 0 = 0 := by
  simp [Port.missing]

/-- R72, column "reads": the operation reads the lines `a[hi:0]` and no others. -/
structure ReadsLowLinesOfA (op : OpCode) (hi : Nat) : Prop where
  inPort : hi < 64
  linesOfA : ∀ n : Fin 64, (reads op).a.getLsbD n = (decide (0 ≤ n.val) && decide (n.val ≤ hi))
  noneOfK : (reads op).k = 0

section ReadsLowLinesOfA

variable {i : Instr} {hi : Nat} (hr : ReadsLowLinesOfA i.opcode hi) (s : State)
include hr

/-- With `a[hi:0]` driven the evaluation completes, whatever else is driven. -/
theorem exec_of_linesDriven (h : linesDriven i.portA hi 0) :
    exec i s = .next (s.putY (eval s.tables i.opcode i.portA.value i.portK.value)) := by
  have ha := (linesDriven_iff_missing_of_lt i.portA hr.inPort hr.linesOfA).mp h
  exact exec_eq_next_iff.mpr ⟨ha, by rw [hr.noneOfK, missing_zero], rfl⟩

/-- With a line of `a[hi:0]` undriven the evaluation is refused, and the refusal names lines of `a` only (R161). -/
theorem exec_of_not_linesDriven (h : ¬linesDriven i.portA hi 0) :
    exec i s = .refused (.undrivenInput i.opcode (i.portA.missing (reads i.opcode).a) 0) := by
  rw [linesDriven_iff_missing_of_lt i.portA hr.inPort hr.linesOfA] at h
  exact exec_eq_refused_iff.mpr ⟨fun hm => h hm.1, by rw [hr.noneOfK, missing_zero]⟩

/-- A driven operand completes the evaluation, whatever is on `k`. -/
theorem exec_of_portA_eq_drive {v : Block} (h : i.portA = .drive v) :
    exec i s = .next (s.putY (eval s.tables i.opcode v i.portK.value)) :=
  exec_eq_next_iff.mpr ⟨by rw [h, missing_drive], by rw [hr.noneOfK, missing_zero], by rw [h, drive_value]⟩

end ReadsLowLinesOfA

/-- R75: every field of `y` above the result width is 0. -/
theorem extractLsb'_of_exec {i : Instr} {s : State} {y : Block} (h : exec i s = .next (s.putY y)) {start : Nat}
    (hw : resultWidth i.opcode ≤ start) (len : Nat) : y.extractLsb' start len = 0 := by
  obtain ⟨y', hy, -, -, habove⟩ := resultIsZeroExtended.2 i s _ h
  rw [putY_y, Option.some.injEq] at hy
  apply BitVec.eq_of_getLsbD_eq
  intro n hn
  rw [BitVec.getLsbD_extractLsb', hy, habove (start + n) (by omega), Bool.and_false, BitVec.ofNat_eq_ofNat,
    BitVec.getLsbD_zero]

end Sys2Proof.Machine
end

section
/-!
PROOF. 40_primitives.md sections 1 and 3: the E-box and the P-box, and the operations EXPAND and PERMUTE.
-/

namespace Sys2Proof.Machine

/-- R100 at one bit. -/
theorem expand_getLsbD {t : Tables} (ht : t.WF) (r : Half) (i : Fin 48) :
    (expand t r).getLsbD (47 - i) = r.getLsbD (32 - (t.erom[i]).toNat) :=
  (selectBits_getLsbD t.erom r i).trans (positionBit_of_isPosition r (ht.1 i))

/-- R108 at one bit. -/
theorem permute_getLsbD {t : Tables} (ht : t.WF) (o : Half) (i : Fin 32) :
    (permute t o).getLsbD (31 - i) = o.getLsbD (32 - (t.prom[i]).toNat) :=
  (selectBits_getLsbD t.prom o i).trans (positionBit_of_isPosition o (ht.2 i))

/-- R24, R25: the default tables hold positions. -/
theorem fipsTables_wf : fipsTables.WF := by decide

/-- Bit 32 and bit 1 of the input stand at both ends of the default expansion: `EROM` begins 32, 1 and ends 32, 1. -/
theorem expand_fipsTables_ends (r : Half) :
    (expand fipsTables r).getLsbD 47 = r.getLsbD 0 ∧ (expand fipsTables r).getLsbD 1 = r.getLsbD 0 ∧
    (expand fipsTables r).getLsbD 46 = r.getLsbD 31 ∧ (expand fipsTables r).getLsbD 0 = r.getLsbD 31 :=
  ⟨expand_getLsbD fipsTables_wf r 0, expand_getLsbD fipsTables_wf r 46, expand_getLsbD fipsTables_wf r 1,
    expand_getLsbD fipsTables_wf r 47⟩

/-- Settles O22: each output bit is the bit its `EROM` entry names; the wrap-around is at the table's ends. -/
theorem expandCopiesBits : Obligations.ExpandCopiesBits := by
  unfold Obligations.ExpandCopiesBits
  refine ⟨fun t r ht => expand_getLsbD ht r, fun r => ?_⟩
  obtain ⟨h47, -, -, h0⟩ := expand_fipsTables_ends r
  exact ⟨h47, h0⟩

/-- Settles O30: each output bit is the bit its `PROM` entry names. -/
theorem permuteMovesBits : Obligations.PermuteMovesBits := by
  unfold Obligations.PermuteMovesBits
  exact fun t o ht => permute_getLsbD ht o

theorem readsLowLinesOfA_expand : ReadsLowLinesOfA 0 31 := ⟨by decide, by decide, rfl⟩

theorem readsLowLinesOfA_permute : ReadsLowLinesOfA 2 31 := ⟨by decide, by decide, rfl⟩

/-- EXPAND with its lines driven puts the expansion of `a[31:0]` on `y`. -/
theorem exec_expand {a : Port 64} (k : Port 56) (s : State) (h : linesDriven a 31 0) :
    exec (.expand a k) s = .next (s.putY (valueExpand s.tables a.value)) :=
  exec_of_linesDriven (i := .expand a k) readsLowLinesOfA_expand s h

/-- EXPAND of a driven block. -/
theorem exec_expand_drive (v : Block) (k : Port 56) (s : State) :
    exec (.expand (.drive v) k) s = .next (s.putY (valueExpand s.tables v)) :=
  exec_of_portA_eq_drive (i := .expand (.drive v) k) readsLowLinesOfA_expand s rfl

/-- PERMUTE of a driven block. -/
theorem exec_permute_drive (v : Block) (k : Port 56) (s : State) :
    exec (.permute (.drive v) k) s = .next (s.putY (valuePermute s.tables v)) :=
  exec_of_portA_eq_drive (i := .permute (.drive v) k) readsLowLinesOfA_permute s rfl

/-- R101: the corner cases and the example of EXPAND. -/
theorem valueExpand_fipsTables_examples :
    valueExpand fipsTables 0 = 0 ∧ valueExpand fipsTables 0xFFFFFFFF = 0xFFFFFFFFFFFF ∧
    valueExpand fipsTables 0x87654321 = 0x0000C0EB0AA06903 := by decide +kernel

/-- R109: the corner cases and the example of PERMUTE. -/
theorem valuePermute_fipsTables_examples :
    valuePermute fipsTables 0 = 0 ∧ valuePermute fipsTables 0xFFFFFFFF = 0xFFFFFFFF ∧
    valuePermute fipsTables 0x80000000 = 0x00800000 ∧ valuePermute fipsTables 0x00000001 = 0x00000800 ∧
    valuePermute fipsTables 0xD0000000 = 0x0000000000808002 := by decide +kernel

/-- Settles O24: EXPAND is one evaluation that reads `a[31:0]` alone and puts `expand` of it, zero-extended, on `y`. -/
theorem expandOperation : Obligations.ExpandOperation := by
  unfold Obligations.ExpandOperation
  refine ⟨fun a k => decodeWord_append 0 k a, fun s _ k => exec_expand k s, ?refusal, fun _ _ => rfl, ?highBits,
    ?examples, ?ends⟩
  case refusal =>
    intro s a k h
    exact exec_of_not_linesDriven (i := .expand a k) readsLowLinesOfA_expand s h
  case highBits =>
    intro s a k y h
    exact extractLsb'_of_exec h le_rfl 16
  case examples =>
    intro s k ht
    obtain ⟨hzero, hones, hexample⟩ := valueExpand_fipsTables_examples
    simp only [exec_expand_drive, ht, hzero, hones, hexample, and_self]
  case ends =>
    intro s a k ht h
    refine ⟨_, exec_expand k s h, ?_⟩
    simpa [ht, valueExpand, result] using expand_fipsTables_ends (a.value.extractLsb' 0 32)

/-- Settles O31: PERMUTE is one evaluation that reads `a[31:0]` alone and puts `permute` of it, zero-extended, on
`y`. -/
theorem permuteOperation : Obligations.PermuteOperation := by
  unfold Obligations.PermuteOperation
  refine ⟨fun a k => decodeWord_append 2 k a, ?result, ?refusal, fun _ _ => rfl, ?highBits, ?examples⟩
  case result =>
    intro s a k h
    exact exec_of_linesDriven (i := .permute a k) readsLowLinesOfA_permute s h
  case refusal =>
    intro s a k h
    exact exec_of_not_linesDriven (i := .permute a k) readsLowLinesOfA_permute s h
  case highBits =>
    intro s a k y h
    exact extractLsb'_of_exec h le_rfl 32
  case examples =>
    intro s k ht
    obtain ⟨hzero, hones, hfirst, hlast, hexample⟩ := valuePermute_fipsTables_examples
    simp only [exec_permute_drive, ht, hzero, hones, hfirst, hlast, hexample, and_self]

end Sys2Proof.Machine
end

section
/-!
PROOF. 40_primitives.md section 2: the chunks, the S-box bank and the operation SUBST.
-/

namespace Sys2Proof.Machine

/-- R103: the bits of chunk `i`. -/
theorem chunk_getLsbD (i : Nat) (S : Subkey) {n : Nat} (hn : n < 6) :
    (chunk i S).getLsbD n = S.getLsbD (48 - 6 * i + n) := by
  simp [chunk, hn]

/-- R103: chunk `i` as a number. -/
theorem chunk_toNat (i : Nat) (S : Subkey) : (chunk i S).toNat = (S >>> (48 - 6 * i)).toNat % 64 := by
  rw [chunk, BitVec.extractLsb'_toNat, BitVec.toNat_ushiftRight]

/-- R103: the shift form of chunk `i`. -/
theorem chunk_setWidth (i : Nat) (S : Subkey) : (chunk i S).setWidth 48 = (S >>> (48 - 6 * i)) &&& 0x3F := by
  apply BitVec.eq_of_toNat_eq
  rw [BitVec.toNat_setWidth_of_le (by decide), chunk_toNat, BitVec.toNat_and]
  exact (Nat.and_two_pow_sub_one_eq_mod _ 6).symm

/-- R103: the eight chunks in order make up the word. -/
theorem append_chunks (S : Subkey) :
    chunk 1 S ++ chunk 2 S ++ chunk 3 S ++ chunk 4 S ++ chunk 5 S ++ chunk 6 S ++ chunk 7 S ++ chunk 8 S = S := by
  have h2 : chunk 1 S ++ chunk 2 S = S.extractLsb' 36 12 := BitVec.extractLsb'_append_extractLsb'_eq_extractLsb' rfl
  have h3 : S.extractLsb' 36 12 ++ chunk 3 S = S.extractLsb' 30 18 :=
    BitVec.extractLsb'_append_extractLsb'_eq_extractLsb' rfl
  have h4 : S.extractLsb' 30 18 ++ chunk 4 S = S.extractLsb' 24 24 :=
    BitVec.extractLsb'_append_extractLsb'_eq_extractLsb' rfl
  have h5 : S.extractLsb' 24 24 ++ chunk 5 S = S.extractLsb' 18 30 :=
    BitVec.extractLsb'_append_extractLsb'_eq_extractLsb' rfl
  have h6 : S.extractLsb' 18 30 ++ chunk 6 S = S.extractLsb' 12 36 :=
    BitVec.extractLsb'_append_extractLsb'_eq_extractLsb' rfl
  have h7 : S.extractLsb' 12 36 ++ chunk 7 S = S.extractLsb' 6 42 :=
    BitVec.extractLsb'_append_extractLsb'_eq_extractLsb' rfl
  have h8 : S.extractLsb' 6 42 ++ chunk 8 S = S.extractLsb' 0 48 :=
    BitVec.extractLsb'_append_extractLsb'_eq_extractLsb' rfl
  rw [h2, h3, h4, h5, h6, h7, h8, BitVec.extractLsb'_eq_self]

/-- Settles O26: the field, its shift form, and the fields put together again. -/
theorem chunkIsSixBitField : Obligations.ChunkIsSixBitField := by
  unfold Obligations.ChunkIsSixBitField
  exact ⟨fun S i _ _ => ⟨fun _ => chunk_getLsbD i S, chunk_setWidth i S⟩, append_chunks⟩

/-- Nibble `i` from the most significant end of a concatenation of eight: the nibbles below it are dropped and those
above it cut off. -/
theorem extractLsb'_append_nibbles (f : Fin 8 → BitVec 4) (i : Fin 8) :
    (f 0 ++ f 1 ++ f 2 ++ f 3 ++ f 4 ++ f 5 ++ f 6 ++ f 7).extractLsb' (28 - 4 * i) 4 = f i := by
  fin_cases i <;>
    (simp (disch := decide) only [BitVec.extractLsb'_append_eq_of_le, BitVec.extractLsb'_append_eq_of_add_le]
     exact BitVec.extractLsb'_eq_self)

/-- R104: lane `i` (0..7 from the most significant end) applies its S-box to its chunk. -/
theorem substitute_nibble (t : Tables) (S : Subkey) (i : Fin 8) :
    (substitute t S).extractLsb' (28 - 4 * i) 4 = sbox t (BitVec.ofFin i) (chunk (i + 1) S) :=
  extractLsb'_append_nibbles (fun i => sbox t (BitVec.ofFin i) (chunk (i + 1) S)) i

/-- R106: an S-box is the ROM read at the numbers of the box and of the input. -/
theorem sbox_eq_srom (t : Tables) {j : BitVec 3} {s : BitVec 6} {m n : Nat} (hj : j.toNat = m) (hs : s.toNat = n)
    (hm : m < 8) (hn : n < 64) : sbox t j s = t.srom[m][n] := by
  subst hj hs
  rfl

/-- Settles O27: each nibble is its lane's S-box, read at the number of its chunk. -/
theorem substituteLooksUpChunks : Obligations.SubstituteLooksUpChunks := by
  unfold Obligations.SubstituteLooksUpChunks
  intro t S i
  have hchunk : (chunk (i + 1) S).toNat = (S >>> (42 - 6 * i.val)).toNat % 64 := by
    rw [chunk_toNat]
    congr 3
    omega
  rw [substitute_nibble]
  exact sbox_eq_srom t rfl hchunk i.isLt _

/-- R107: a bit of the bank's output depends on the chunk of its own lane only. -/
theorem substitute_getLsbD_congr (t : Tables) {S S' : Subkey} {n : Nat} (hn : n < 32)
    (h : chunk (8 - n / 4) S = chunk (8 - n / 4) S') : (substitute t S).getLsbD n = (substitute t S').getLsbD n := by
  have hlane : 7 - n / 4 < 8 := by omega
  have hnum : 7 - n / 4 + 1 = 8 - n / 4 := by omega
  have hbit : 28 - 4 * (7 - n / 4) + n % 4 = n := by omega
  have hnibble : (substitute t S).extractLsb' (28 - 4 * (7 - n / 4)) 4 =
      (substitute t S').extractLsb' (28 - 4 * (7 - n / 4)) 4 := by
    rw [substitute_nibble t S ⟨_, hlane⟩, substitute_nibble t S' ⟨_, hlane⟩, hnum, h]
  have := congrArg (fun x => x.getLsbD (n % 4)) hnibble
  simpa [hbit, Nat.mod_lt] using this

/-- Blocks that agree outside chunk `i` of the bank's input have every other chunk in common. -/
theorem chunk_eq_of_agree_outside {a b : Block} {i : Nat}
    (h : ∀ n, ¬(48 - 6 * i ≤ n ∧ n ≤ 53 - 6 * i) → a.getLsbD n = b.getLsbD n) (hi : i ≤ 8) {j : Nat} (hj : j ≤ 8)
    (hij : j ≠ i) :
    chunk j (a.extractLsb' 0 48) = chunk j (b.extractLsb' 0 48) := by
  apply BitVec.eq_of_getLsbD_eq
  intro n hn
  rw [chunk_getLsbD _ _ hn, chunk_getLsbD _ _ hn, BitVec.getLsbD_extractLsb', BitVec.getLsbD_extractLsb',
    h _ (by omega)]

theorem readsLowLinesOfA_subst : ReadsLowLinesOfA 1 47 := ⟨by decide, by decide, rfl⟩

/-- SUBST of a driven block. -/
theorem exec_subst_drive (v : Block) (k : Port 56) (s : State) :
    exec (.subst (.drive v) k) s = .next (s.putY (valueSubst s.tables v)) :=
  exec_of_portA_eq_drive (i := .subst (.drive v) k) readsLowLinesOfA_subst s rfl

/-- R105: two corner cases and the example of SUBST. -/
theorem valueSubst_fipsTables_examples :
    valueSubst fipsTables 0 = 0xEFA72C4D ∧ valueSubst fipsTables 0xFFFFFFFFFFFF = 0xD9CE3DCB ∧
    valueSubst fipsTables 0xF3D839935A30 = 0x000000005EDC11C0 := by decide

/-- R105: a change confined to chunk `i` of the operand changes at most nibble `i` of the result. -/
theorem valueSubst_getLsbD_of_agree_outside (t : Tables) {a b : Block} {i : Nat} (h1 : 1 ≤ i) (h8 : i ≤ 8)
    (h : ∀ n, ¬(48 - 6 * i ≤ n ∧ n ≤ 53 - 6 * i) → a.getLsbD n = b.getLsbD n) {n : Nat}
    (hn : ¬(32 - 4 * i ≤ n ∧ n ≤ 35 - 4 * i)) : (valueSubst t a).getLsbD n = (valueSubst t b).getLsbD n := by
  simp only [valueSubst, result, BitVec.getLsbD_setWidth]
  congr 1
  by_cases h32 : n < 32
  · exact substitute_getLsbD_congr t h32 (chunk_eq_of_agree_outside h h8 (by omega) (by omega))
  · rw [BitVec.getLsbD_of_ge _ _ (by omega), BitVec.getLsbD_of_ge _ _ (by omega)]

/-- Settles O29: SUBST is one evaluation that reads `a[47:0]` alone and puts `substitute` of it, zero-extended, on
`y`. -/
theorem substOperation : Obligations.SubstOperation := by
  unfold Obligations.SubstOperation
  refine ⟨fun a k => decodeWord_append 1 k a, ?result, ?refusal, fun _ _ => rfl, ?highBits, ?examples, ?oneChunk⟩
  case result =>
    intro s a k h
    exact exec_of_linesDriven (i := .subst a k) readsLowLinesOfA_subst s h
  case refusal =>
    intro s a k h
    exact exec_of_not_linesDriven (i := .subst a k) readsLowLinesOfA_subst s h
  case highBits =>
    intro s a k y h
    exact extractLsb'_of_exec h le_rfl 32
  case examples =>
    intro s k ht
    obtain ⟨hzero, hones, hexample⟩ := valueSubst_fipsTables_examples
    simp only [exec_subst_drive, ht, hzero, hones, hexample, and_self]
  case oneChunk =>
    intro s a b k i h1 h8 h
    exact ⟨_, _, exec_subst_drive a k s, exec_subst_drive b k s,
      fun n => valueSubst_getLsbD_of_agree_outside s.tables h1 h8 h⟩

end Sys2Proof.Machine
end

section
/-!
PROOF. 40_primitives.md section 4: the operation SBOX.
-/

namespace Sys2Proof.Machine

/-- R112: SBOX reads `SROM[a[8:6]][a[5:0]]`. -/
theorem valueSbox_eq_srom (t : Tables) (a : Block) :
    valueSbox t a = ((t.srom[(a >>> 6).toNat % 8]'(Nat.mod_lt _ (by decide)))[a.toNat % 64]'(
      Nat.mod_lt _ (by decide))).setWidth 64 := by
  have hbox : (a.extractLsb' 6 3).toNat = (a >>> 6).toNat % 8 := by
    rw [BitVec.extractLsb'_toNat, BitVec.toNat_ushiftRight]
  have hinput : (a.extractLsb' 0 6).toNat = a.toNat % 64 := by
    rw [BitVec.extractLsb'_toNat, Nat.shiftRight_zero]
  rw [valueSbox, romRead_extractLsb', sbox_eq_srom t hbox hinput, result]

theorem readsLowLinesOfA_sbox : ReadsLowLinesOfA 3 8 := ⟨by decide, by decide, rfl⟩

/-- SBOX of a driven block. -/
theorem exec_sbox_drive (v : Block) (k : Port 56) (s : State) :
    exec (.sbox (.drive v) k) s = .next (s.putY (valueSbox s.tables v)) :=
  exec_of_portA_eq_drive (i := .sbox (.drive v) k) readsLowLinesOfA_sbox s rfl

/-- R112: the corner cases and the example of SBOX. -/
theorem valueSbox_fipsTables_examples :
    valueSbox fipsTables 0x000 = 0xE ∧ valueSbox fipsTables 0x03F = 0xD ∧ valueSbox fipsTables 0x1FF = 0xB ∧
    valueSbox fipsTables 0x040 = 0xF ∧ valueSbox fipsTables 0xFFFFFFFFFFFFFE00 = 0xE ∧
    valueSbox fipsTables 0x00C = 0xB := by decide

/-- Settles O34: SBOX is one evaluation that reads `a[8:0]` alone and puts the ROM entry it addresses, zero-extended,
on `y`. -/
theorem sboxOperation : Obligations.SboxOperation := by
  unfold Obligations.SboxOperation
  refine ⟨fun a k => decodeWord_append 3 k a, ?result, ?refusal, fun _ _ => rfl, ?highBits, ?sameAddress,
    ?boxNumber, ?examples⟩
  case result =>
    intro s a k h
    rw [← valueSbox_eq_srom]
    exact exec_of_linesDriven (i := .sbox a k) readsLowLinesOfA_sbox s h
  case refusal =>
    intro s a k h
    exact exec_of_not_linesDriven (i := .sbox a k) readsLowLinesOfA_sbox s h
  case highBits =>
    intro s a k y h
    exact extractLsb'_of_exec h le_rfl 60
  case sameAddress =>
    intro s a b k h
    rw [exec_sbox_drive, exec_sbox_drive, valueSbox, h, valueSbox]
  case boxNumber =>
    intro a
    have := (a.extractLsb' 6 3).isLt
    omega
  case examples =>
    intro s k ht
    obtain ⟨h000, h03F, h1FF, h040, hhigh, h00C⟩ := valueSbox_fipsTables_examples
    simp only [exec_sbox_drive, ht, h000, h03F, h1FF, h040, hhigh, h00C, and_self]

end Sys2Proof.Machine
end

section
/-!
PROOF. 41_round_and_cipher.md: what the operations that read `k` have in common (30_encoding.md R72,
60_exceptions.md R161).
-/

namespace Sys2Proof.Machine

/-- R161: every line that the operation reads is driven. -/
def ReadsDriven (i : Instr) : Prop :=
  i.portA.missing (reads i.opcode).a = 0 ∧ i.portK.missing (reads i.opcode).k = 0

/-- With its read lines driven an evaluation completes. -/
theorem exec_of_readsDriven {i : Instr} (h : ReadsDriven i) (s : State) :
    exec i s = .next (s.putY (eval s.tables i.opcode i.portA.value i.portK.value)) :=
  exec_eq_next_iff.mpr ⟨h.1, h.2, rfl⟩

/-- With a read line undriven an evaluation is refused, and the refusal names the lines. -/
theorem exec_of_not_readsDriven {i : Instr} (h : ¬ReadsDriven i) (s : State) :
    exec i s = .refused (.undrivenInput i.opcode (i.portA.missing (reads i.opcode).a)
      (i.portK.missing (reads i.opcode).k)) :=
  exec_eq_refused_iff.mpr ⟨h, rfl⟩

/-- The refusal of an operation that reads nothing of `a` names lines of `k` only. -/
theorem exec_refused_of_readsNoneOfA {i : Instr} (ha : (reads i.opcode).a = 0) (h : ¬ReadsDriven i) (s : State) :
    exec i s = .refused (.undrivenInput i.opcode 0 (i.portK.missing (reads i.opcode).k)) := by
  rw [exec_of_not_readsDriven h, ha, missing_zero]

/-- An instruction on a driven block and a driven key has its read lines driven. -/
theorem readsDriven_of_drive {i : Instr} {v : Block} {w : Key} (ha : i.portA = .drive v) (hk : i.portK = .drive w) :
    ReadsDriven i :=
  ⟨by rw [ha, missing_drive], by rw [hk, missing_drive]⟩

/-- R72: FEISTEL reads `a[31:0]` and `k[47:0]`. -/
theorem readsDriven_feistel_iff {a : Port 64} {k : Port 56} :
    ReadsDriven (.feistel a k) ↔ linesDriven a 31 0 ∧ linesDriven k 47 0 :=
  (and_congr (linesDriven_iff_missing_of_lt (mask := (reads 4).a) a (by decide) (by decide))
    (linesDriven_iff_missing_of_lt (mask := (reads 4).k) k (by decide) (by decide))).symm

/-- R72: SUBKEY1 reads `k[47:0]` and nothing of `a`. -/
theorem readsDriven_subkey1_iff {a : Port 64} {k : Port 56} : ReadsDriven (.subkey1 a k) ↔ linesDriven k 47 0 :=
  (and_iff_right (missing_zero a)).trans
    (linesDriven_iff_missing_of_lt (mask := (reads 5).k) k (by decide) (by decide)).symm

/-- R72: SUBKEY2 reads `k[55:8]` and nothing of `a`. -/
theorem readsDriven_subkey2_iff {a : Port 64} {k : Port 56} : ReadsDriven (.subkey2 a k) ↔ linesDriven k 55 8 :=
  (and_iff_right (missing_zero a)).trans
    (linesDriven_iff_missing_of_lt (mask := (reads 6).k) k (by decide) (by decide)).symm

/-- R72: ENC2 reads both ports whole. -/
theorem readsDriven_enc2_iff {a : Port 64} {k : Port 56} :
    ReadsDriven (.enc2 a k) ↔ linesDriven a 63 0 ∧ linesDriven k 55 0 :=
  (and_congr (linesDriven_iff_missing_of_lt (mask := (reads 7).a) a (by decide) (by decide))
    (linesDriven_iff_missing_of_lt (mask := (reads 7).k) k (by decide) (by decide))).symm

/-- FEISTEL of a driven block and key. -/
theorem exec_feistel_drive (v : Block) (w : Key) (s : State) :
    exec (.feistel (.drive v) (.drive w)) s = .next (s.putY (valueFeistel s.tables v w)) :=
  exec_of_readsDriven (i := .feistel (.drive v) (.drive w)) (readsDriven_of_drive rfl rfl) s

/-- SUBKEY1 of a driven key, whatever is on `a`. -/
theorem exec_subkey1_drive (a : Port 64) (w : Key) (s : State) :
    exec (.subkey1 a (.drive w)) s = .next (s.putY (valueSubkey1 w)) :=
  exec_of_readsDriven (i := .subkey1 a (.drive w)) ⟨missing_zero a, missing_drive w _⟩ s

/-- SUBKEY2 of a driven key, whatever is on `a`. -/
theorem exec_subkey2_drive (a : Port 64) (w : Key) (s : State) :
    exec (.subkey2 a (.drive w)) s = .next (s.putY (valueSubkey2 w)) :=
  exec_of_readsDriven (i := .subkey2 a (.drive w)) ⟨missing_zero a, missing_drive w _⟩ s

/-- ENC2 of a driven block and key. -/
theorem exec_enc2_drive (v : Block) (w : Key) (s : State) :
    exec (.enc2 (.drive v) (.drive w)) s = .next (s.putY (encryptTwoRound s.tables w v)) :=
  exec_of_readsDriven (i := .enc2 (.drive v) (.drive w)) (readsDriven_of_drive rfl rfl) s

end Sys2Proof.Machine
end

section
/-!
PROOF. 41_round_and_cipher.md: the subkeys as fields of the key, and the operations SUBKEY1 and SUBKEY2.
-/

namespace Sys2Proof.Machine

/-- R132 at one bit of K1. -/
theorem subkey1_getLsbD (k : Key) {n : Nat} (hn : n < 48) : (subkey1 k).getLsbD n = k.getLsbD n := by
  rw [subkey1, BitVec.getLsbD_extractLsb', decide_eq_true hn, Bool.true_and, Nat.zero_add]

/-- R132 at one bit of K2. -/
theorem subkey2_getLsbD (k : Key) {n : Nat} (hn : n < 48) : (subkey2 k).getLsbD n = k.getLsbD (n + 8) := by
  rw [subkey2, BitVec.getLsbD_extractLsb', decide_eq_true hn, Bool.true_and, Nat.add_comm]

/-- R132: K1 depends on `K[47:0]` only. -/
theorem subkey1_congr {k k' : Key} (h : ∀ n, n < 48 → k.getLsbD n = k'.getLsbD n) : subkey1 k = subkey1 k' := by
  apply BitVec.eq_of_getLsbD_eq
  intro n hn
  rw [subkey1_getLsbD k hn, subkey1_getLsbD k' hn, h n hn]

/-- R132: K2 depends on `K[55:8]` only. -/
theorem subkey2_congr {k k' : Key} (h : ∀ n, 8 ≤ n → k.getLsbD n = k'.getLsbD n) : subkey2 k = subkey2 k' := by
  apply BitVec.eq_of_getLsbD_eq
  intro n hn
  rw [subkey2_getLsbD k hn, subkey2_getLsbD k' hn, h (n + 8) (Nat.le_add_left 8 n)]

/-- A field held at the width of its word is the word shifted and masked. -/
theorem setWidth_extractLsb'_eq_and {w len : Nat} (hlen : len ≤ w) (x : BitVec w) (start : Nat) :
    (x.extractLsb' start len).setWidth w = (x >>> start) &&& BitVec.ofNat w (2 ^ len - 1) := by
  have hmask : 2 ^ len - 1 < 2 ^ w :=
    (Nat.sub_lt (Nat.two_pow_pos len) Nat.one_pos).trans_le (Nat.pow_le_pow_right Nat.two_pos hlen)
  apply BitVec.eq_of_toNat_eq
  rw [BitVec.toNat_setWidth_of_le hlen, BitVec.extractLsb'_toNat, BitVec.toNat_and, BitVec.toNat_ushiftRight,
    BitVec.toNat_ofNat, Nat.mod_eq_of_lt hmask, Nat.and_two_pow_sub_one_eq_mod]

/-- Settles O37: the two fields as masks and bit by bit; K1's upper 40 bits and K2's lower 40 are the same key bits. -/
theorem subkeysAreKeyFields : Obligations.SubkeysAreKeyFields := by
  unfold Obligations.SubkeysAreKeyFields
  refine ⟨?masks, fun k => ⟨fun n => subkey1_getLsbD k, fun n => subkey2_getLsbD k⟩, ?shared,
    fun _ _ => subkey2_congr, fun _ _ => subkey1_congr⟩
  case masks =>
    intro k
    exact ⟨setWidth_extractLsb'_eq_and (by decide) k 0, setWidth_extractLsb'_eq_and (by decide) k 8⟩
  case shared =>
    intro k n hn
    rw [subkey1_getLsbD k (by omega), subkey2_getLsbD k (by omega)]

/-- R133: the value of SUBKEY1 as a number. -/
theorem valueSubkey1_eq_ofNat (k : Key) : valueSubkey1 k = BitVec.ofNat 64 (k.toNat % 2 ^ 48) := by
  rw [valueSubkey1, result, ← BitVec.ofNat_toNat, subkey1, BitVec.extractLsb'_toNat, Nat.shiftRight_zero]

/-- R134: the value of SUBKEY2 as a number. -/
theorem valueSubkey2_eq_ofNat (k : Key) : valueSubkey2 k = BitVec.ofNat 64 (k.toNat / 2 ^ 8) := by
  have hk : k.toNat / 2 ^ 8 < 2 ^ 48 := Nat.div_lt_of_lt_mul k.isLt
  rw [valueSubkey2, result, ← BitVec.ofNat_toNat, subkey2, BitVec.extractLsb'_toNat, Nat.shiftRight_eq_div_pow,
    Nat.mod_eq_of_lt hk]

/-- R133: the corner cases and the example of SUBKEY1. -/
theorem valueSubkey1_examples :
    valueSubkey1 0xFF000000000000 = 0 ∧ valueSubkey1 0x000000000000FF = 0xFF ∧
    valueSubkey1 0xFFFFFFFFFFFFFF = 0xFFFFFFFFFFFF ∧ valueSubkey1 0x0123456789ABCD = 0x000023456789ABCD := by decide

/-- R134: the corner cases and the example of SUBKEY2, and the key whose two subkeys are equal. -/
theorem valueSubkey2_examples :
    valueSubkey2 0xFF000000000000 = 0xFF0000000000 ∧ valueSubkey2 0x000000000000FF = 0 ∧
    valueSubkey2 0x33333333333333 = 0x333333333333 ∧ valueSubkey1 0x33333333333333 = 0x333333333333 ∧
    valueSubkey2 0x0123456789ABCD = 0x00000123456789AB := by decide

/-- Settles O38: SUBKEY1 is one evaluation that reads `k[47:0]` alone and puts it, zero-extended, on `y`. -/
theorem subkey1Operation : Obligations.Subkey1Operation := by
  unfold Obligations.Subkey1Operation
  refine ⟨fun a k => decodeWord_append 5 k a, ?result, ?refusal, fun _ _ => rfl, ?highBits, ?examples⟩
  case result =>
    intro s a k h
    rw [← valueSubkey1_eq_ofNat]
    exact exec_of_readsDriven (i := .subkey1 a k) (readsDriven_subkey1_iff.mpr h) s
  case refusal =>
    intro s a k h
    exact exec_refused_of_readsNoneOfA (i := .subkey1 a k) rfl (mt readsDriven_subkey1_iff.mp h) s
  case highBits =>
    intro s a k y h
    exact extractLsb'_of_exec h le_rfl 16
  case examples =>
    intro s a
    obtain ⟨htop, hlow, hones, hexample⟩ := valueSubkey1_examples
    simp only [exec_subkey1_drive, htop, hlow, hones, hexample, and_self]

/-- Settles O39: SUBKEY2 is one evaluation that reads `k[55:8]` alone and puts it, zero-extended, on `y`. -/
theorem subkey2Operation : Obligations.Subkey2Operation := by
  unfold Obligations.Subkey2Operation
  refine ⟨fun a k => decodeWord_append 6 k a, ?result, ?refusal, fun _ _ => rfl, ?highBits, ?examples⟩
  case result =>
    intro s a k h
    rw [← valueSubkey2_eq_ofNat]
    exact exec_of_readsDriven (i := .subkey2 a k) (readsDriven_subkey2_iff.mpr h) s
  case refusal =>
    intro s a k h
    exact exec_refused_of_readsNoneOfA (i := .subkey2 a k) rfl (mt readsDriven_subkey2_iff.mp h) s
  case highBits =>
    intro s a k y h
    exact extractLsb'_of_exec h le_rfl 16
  case examples =>
    intro s a
    obtain ⟨htop, hlow, hequal2, hequal1, hexample⟩ := valueSubkey2_examples
    simp only [exec_subkey1_drive, exec_subkey2_drive, htop, hlow, hequal2, hequal1, hexample, and_self]

end Sys2Proof.Machine
end

section
/-!
PROOF. 41_round_and_cipher.md: the round function and the operation FEISTEL.
-/

namespace Sys2Proof.Machine

/-- The low field of a result of its own width is the result. -/
theorem extractLsb'_result {w : Nat} (h : w ≤ 64) (v : BitVec w) : (result v).extractLsb' 0 w = v :=
  extractLsb'_setWidth_self h v

/-- SUBST of a value of the S-box bank's width. -/
theorem valueSubst_result (t : Tables) (c : Subkey) : valueSubst t (result c) = result (substitute t c) := by
  rw [valueSubst, extractLsb'_result (by decide)]

/-- PERMUTE of a value of a half's width. -/
theorem valuePermute_result (t : Tables) (o : Half) : valuePermute t (result o) = result (permute t o) := by
  rw [valuePermute, extractLsb'_result (by decide)]

/-- R75: zero-extension commutes with exclusive-or. -/
theorem result_xor {w : Nat} (x y : BitVec w) : result (x ^^^ y) = result x ^^^ result y :=
  BitVec.setWidth_xor

/-- R130: the value of FEISTEL step by step, each step on 64-bit values. -/
theorem valueFeistel_eq_steps (t : Tables) (a : Block) (k : Key) :
    valueFeistel t a k =
      valuePermute t (valueSubst t (valueExpand t a ^^^ result (k.extractLsb' 0 48))) ^^^
        result (k.extractLsb' 0 32) := by
  rw [valueExpand, ← result_xor, valueSubst_result, valuePermute_result, ← result_xor, valueFeistel, feistel,
    BitVec.extractLsb'_extractLsb'_of_le (by decide)]

/-- Settles O35: the five steps are the unit's own operations on driven operands. -/
theorem feistelIsFiveSteps : Obligations.FeistelIsFiveSteps := by
  unfold Obligations.FeistelIsFiveSteps
  intro s a k
  refine ⟨_, _, _, exec_expand_drive a _ s, exec_subst_drive _ _ s, exec_permute_drive _ _ s, ?_⟩
  rw [exec_feistel_drive, valueFeistel_eq_steps]
  rfl

/-- The evaluation that FEISTEL is. -/
theorem exec_feistel_eq_evaluate (a : Port 64) (k : Port 56) (s : State) :
    exec (.feistel a k) s = evaluate 4 a k (valueFeistel s.tables a.value k.value) s := rfl

/-- R131: the corner cases and the example of FEISTEL. -/
theorem valueFeistel_fipsTables_examples :
    valueFeistel fipsTables 0 0 = 0xD8D8DBBC ∧
    valueFeistel fipsTables 0xFFFFFFFF 0xFFFFFFFFFFFF = 0x27272443 ∧
    valueFeistel fipsTables 0x87654321 0xFF333333333333 = 0x572A8260 ∧
    valueFeistel fipsTables 0x87654321 0x333333333333 = 0x00000000572A8260 := by decide +kernel

/-- R131: the example's intermediate values. -/
theorem feistel_fipsTables_intermediate_values :
    expand fipsTables 0x87654321 = 0xC0EB0AA06903 ∧
    expand fipsTables 0x87654321 ^^^ 0x333333333333 = 0xF3D839935A30 ∧
    substitute fipsTables 0xF3D839935A30 = 0x5EDC11C0 ∧ permute fipsTables 0x5EDC11C0 = 0x6419B153 := by
  decide +kernel

/-- R131: on zero operands both exclusive-ors drop out. -/
theorem feistel_fipsTables_zero : feistel fipsTables 0 0 = permute fipsTables (substitute fipsTables 0) := by
  have hexpand : expand fipsTables 0#32 = 0#48 := by decide +kernel
  have hlow : (0#48).extractLsb' 0 32 = 0#32 := rfl
  simp only [feistel, BitVec.ofNat_eq_ofNat, hexpand, hlow, BitVec.xor_self, BitVec.xor_zero]

/-- Settles O36: FEISTEL is one evaluation that reads `a[31:0]` and `k[47:0]` alone and puts `feistel` of them,
zero-extended, on `y`. -/
theorem feistelOperation : Obligations.FeistelOperation := by
  unfold Obligations.FeistelOperation
  refine ⟨fun a k => decodeWord_append 4 k a, ?result, ?refusal, fun _ _ => rfl, ?highBits, ?highKey, ?examples,
    feistel_fipsTables_intermediate_values, feistel_fipsTables_zero⟩
  case result =>
    intro s a k ha hk
    exact exec_of_readsDriven (readsDriven_feistel_iff.mpr ⟨ha, hk⟩) s
  case refusal =>
    intro s a k h
    exact exec_of_not_readsDriven (mt readsDriven_feistel_iff.mp h) s
  case highBits =>
    intro s a k y h
    exact extractLsb'_of_exec h le_rfl 32
  case highKey =>
    intro s a k k' h
    have hvalue : valueFeistel s.tables a.value k = valueFeistel s.tables a.value k' := by
      rw [valueFeistel, h, valueFeistel]
    have hundriven : undriven 4 a (.drive k) = undriven 4 a (.drive k') := by
      rw [undriven, undriven, missing_drive, missing_drive]
    rw [exec_feistel_eq_evaluate, exec_feistel_eq_evaluate, drive_value, drive_value, hvalue, evaluate, evaluate,
      hundriven]
  case examples =>
    intro s ht
    obtain ⟨hzero, hones, hhigh, hexample⟩ := valueFeistel_fipsTables_examples
    simp only [exec_feistel_drive, ht, hzero, hones, hhigh, hexample, and_self]

end Sys2Proof.Machine
end

section
/-!
PROOF. 41_round_and_cipher.md: the cipher, the operation ENC2 and the known answer.
-/

namespace Sys2Proof.Machine

/-- 20_memory.md R51: a block masked to its low half. -/
theorem and_mask_eq_result_lowHalf (a : Block) : a &&& 0xFFFFFFFF = result (lowHalf a) :=
  (setWidth_extractLsb'_eq_and (len := 32) (by decide) a 0).symm

/-- 20_memory.md R51: a block shifted down to its high half. -/
theorem ushiftRight_eq_result_highHalf (a : Block) : a >>> 32 = result (highHalf a) := by
  apply BitVec.eq_of_toNat_eq
  have ha : a.toNat >>> 32 < 2 ^ 32 := Nat.shiftRight_eq_div_pow .. ▸ Nat.div_lt_of_lt_mul a.isLt
  rw [result, BitVec.toNat_setWidth_of_le (by decide), highHalf, BitVec.extractLsb'_toNat, Nat.mod_eq_of_lt ha,
    BitVec.toNat_ushiftRight]

/-- Two halves put together as the source does it, with a shift and an or. -/
theorem shiftLeft_or_result (x y : Half) : (result x <<< 32) ||| result y = x ++ y := by
  rw [result, result, ← BitVec.setWidth_append_eq_shiftLeft_setWidth_or, BitVec.setWidth_eq]

/-- FEISTEL run on a half and on a subkey as the unit answered it. -/
theorem exec_feistel_result (r : Half) (key : Subkey) (s : State) :
    exec (.feistel (.drive (result r)) (.drive ((result key).setWidth 56))) s =
      .next (s.putY (result (feistel s.tables r key))) := by
  have hkey : ((result key).setWidth 56).extractLsb' 0 48 = key := by
    rw [BitVec.extractLsb'_setWidth_of_le (by decide), extractLsb'_result (by decide)]
  rw [exec_feistel_drive, valueFeistel, extractLsb'_result (by decide), hkey]

/-- The cipher is R135's recurrence with `feistel` as the round function. -/
theorem encryptTwoRound_eq_encryptWith (t : Tables) (k : Key) (p : Block) :
    encryptTwoRound t k p = encryptWith (feistel t) k p := rfl

/-- Settles O40: the halves and the subkeys are taken by the unit and the host, and each round is FEISTEL. -/
theorem cipherIsTwoRounds : Obligations.CipherIsTwoRounds := by
  unfold Obligations.CipherIsTwoRounds
  intro s a k
  refine ⟨_, _, result (feistel s.tables (lowHalf a) (subkey1 k)),
    result (feistel s.tables (highHalf a ^^^ feistel s.tables (lowHalf a) (subkey1 k)) (subkey2 k)),
    exec_subkey1_drive _ k s, exec_subkey2_drive _ k s, ?round1, ?round2, ?output⟩
  case round1 =>
    rw [and_mask_eq_result_lowHalf]
    exact exec_feistel_result _ _ s
  case round2 =>
    rw [ushiftRight_eq_result_highHalf, ← result_xor]
    exact exec_feistel_result _ _ s
  case output =>
    rw [exec_enc2_drive, and_mask_eq_result_lowHalf, ushiftRight_eq_result_highHalf, ← result_xor, ← result_xor,
      shiftLeft_or_result]
    rfl

/-- A key with equal subkeys uses the one subkey in both rounds. -/
theorem encryptTwoRound_of_subkeys_eq (t : Tables) {k : Key} (h : subkey1 k = subkey2 k) (p : Block) :
    encryptTwoRound t k p = encryptWith (fun r _ => feistel t r (subkey1 k)) k p := by
  rw [encryptTwoRound_eq_encryptWith, encryptWith, encryptWith, ← h]

/-- R136: the corner cases and the example of ENC2. -/
theorem encryptTwoRound_fipsTables_examples :
    encryptTwoRound fipsTables 0 0 = 0xD8D8DBBCE73AED4F ∧
    encryptTwoRound fipsTables 0xFFFFFFFFFFFFFF 0xFFFFFFFFFFFFFFFF = 0xD8D8DBBC32D1A671 ∧
    encryptTwoRound fipsTables 0x33333333333333 0x1234567887654321 = 0x451ED41889B1DCF5 := by decide +kernel

/-- R136: the intermediate values of the zero operands and of the example. -/
theorem enc2_fipsTables_intermediate_values :
    highHalf 0xD8D8DBBCE73AED4F = feistel fipsTables 0 0 ∧
    highHalf 0x1234567887654321 = 0x12345678 ∧ lowHalf 0x1234567887654321 = 0x87654321 ∧
    feistel fipsTables 0x87654321 0x333333333333 = 0x572A8260 ∧
    (0x12345678 : Half) ^^^ 0x572A8260 = 0x451ED418 ∧
    feistel fipsTables 0x451ED418 0x333333333333 = 0x0ED49FD4 ∧
    (0x87654321 : Half) ^^^ 0x0ED49FD4 = 0x89B1DCF5 := by decide +kernel

/-- Outcomes that differ in the `y` written are different. -/
theorem next_putY_ne {s : State} {v w : Block} (h : v ≠ w) :
    (.next (s.putY v) : Host.Outcome State Fault Refusal) ≠ .next (s.putY w) := by
  intro heq
  rw [Host.Outcome.next.injEq] at heq
  exact h (Option.some.inj (congrArg State.y heq))

/-- Settles O41: ENC2 is one evaluation that reads both ports whole and puts the ciphertext on `y`. -/
theorem enc2Operation : Obligations.Enc2Operation := by
  unfold Obligations.Enc2Operation
  refine ⟨fun a k => decodeWord_append 7 k a, ?result, ?refusal, fun _ _ => rfl, ?lowByte, ?highByte, ?equalSubkeys,
    by decide, by decide, ?examples, enc2_fipsTables_intermediate_values⟩
  case result =>
    intro s a k ha hk
    exact exec_of_readsDriven (readsDriven_enc2_iff.mpr ⟨ha, hk⟩) s
  case refusal =>
    intro s a k h
    exact exec_of_not_readsDriven (mt readsDriven_enc2_iff.mp h) s
  case lowByte =>
    intro k h
    exact subkey2_congr fun n hn => (h n hn).trans BitVec.getLsbD_zero.symm
  case highByte =>
    intro k h
    exact subkey1_congr fun n hn => (h n hn).trans BitVec.getLsbD_zero.symm
  case equalSubkeys =>
    intro s a k h
    rw [exec_enc2_drive, encryptTwoRound_of_subkeys_eq _ h]
  case examples =>
    intro s ht
    obtain ⟨hzero, hones, hexample⟩ := encryptTwoRound_fipsTables_examples
    simp only [exec_enc2_drive, ht, hzero, hones, hexample, true_and]
    exact next_putY_ne (by decide)

/-- Settles O43: ENC2 answers what the tables make of the known-answer inputs, and the default ones make something
else of them. -/
theorem knownAnswerIsHypothesisOnTables : Obligations.KnownAnswerIsHypothesisOnTables := by
  unfold Obligations.KnownAnswerIsHypothesisOnTables
  obtain ⟨-, -, hdefault⟩ := encryptTwoRound_fipsTables_examples
  refine ⟨?hypothesis, ?default, ?defaultFails⟩
  case hypothesis =>
    intro s h
    rw [exec_enc2_drive, h]
  case default =>
    intro s ht
    rw [exec_enc2_drive, ht, hdefault]
  case defaultFails =>
    rw [KnownAnswer, hdefault]
    decide

end Sys2Proof.Machine
end

section
/-!
PROOF. 60_exceptions.md: every operation produces a result and none ends in an exception (R160, R161).
-/

namespace Sys2Proof.Machine

/-- R161, line by line: a line of `a` or `k` that the operation reads is a driven line. -/
theorem readsDriven_iff {i : Instr} :
    ReadsDriven i ↔
      (∀ n, (reads i.opcode).a.getLsbD n = true → i.portA.driven.getLsbD n = true) ∧
      (∀ n, (reads i.opcode).k.getLsbD n = true → i.portK.driven.getLsbD n = true) :=
  and_congr (missing_eq_zero_iff _ _) (missing_eq_zero_iff _ _)

/-- Settles O16: with its read lines driven an operation completes with `eval`, and there is no fault to end in. -/
theorem everyOperationProducesResult : Obligations.EveryOperationProducesResult := by
  unfold Obligations.EveryOperationProducesResult
  refine ⟨?result, ?noFault⟩
  case result =>
    intro i s ha hk
    exact exec_of_readsDriven (readsDriven_iff.mpr ⟨ha, hk⟩) s
  case noFault =>
    intro _ _ f
    cases f

end Sys2Proof.Machine
end

section
/-!
PROOF. 10_state.md: the reset state and the invariant, kept by every step and every run of host moves.
-/

namespace Sys2Proof.Machine

/-- Settles O1: every address of every S-box is looked up in both forms of the table. -/
theorem resetSboxesFollowRowForm : Obligations.ResetSboxesFollowRowForm := by
  unfold Obligations.ResetSboxesFollowRowForm
  decide +kernel

/-- Settles O2: each clause is read off the reset state; its three undriven lines of `op` are those the step names. -/
theorem resetAwaitsHost : Obligations.ResetAwaitsHost :=
  ⟨rfl, rfl, rfl, rfl, rfl, rfl, rfl⟩

/-- R25: the default P-box table repeats no position. -/
theorem fipsTables_promOnce : fipsTables.PromOnce := by decide

/-- An undriven port is in its one form. -/
theorem floating_canonical (n : Nat) : (Port.floating n).Canonical :=
  BitVec.zero_and

/-- Settles O3: the default tables are well formed, the ports float, and no `y` is recorded. -/
theorem resetMeetsInvariant : Obligations.ResetMeetsInvariant where
  positions := fipsTables_wf
  promOnce := fipsTables_promOnce
  opForm := floating_canonical 3
  aForm := floating_canonical 64
  kForm := floating_canonical 56
  output := .inl rfl

/-- R22: with every line that the selected operation reads driven, the output net carries `eval` of the inputs. -/
theorem outputNet_of_driven {s : State} (hop : s.opMissing = 0) (ha : s.a.missing (reads s.op.value).a = 0)
    (hk : s.k.missing (reads s.op.value).k = 0) :
    s.outputNet = some (eval s.tables s.op.value s.a.value s.k.value) :=
  if_pos ⟨hop, ha, hk⟩

/-- After a step `y` is the output net, whatever was recorded before: the invariant's other clauses alone, which speak
of the ports and the tables, are enough for all of it to hold afterwards. -/
theorem inv_of_step {s s' : State} (hpos : s.tables.WF) (honce : s.tables.PromOnce) (hop : s.op.Canonical)
    (ha : s.a.Canonical) (hk : s.k.Canonical) (h : step s = .next s') : Inv s' := by
  obtain ⟨hopDriven, haDriven, hkDriven, rfl⟩ := step_cases h
  have hnet := outputNet_of_driven hopDriven haDriven hkDriven
  exact ⟨hpos, honce, hop, ha, hk, .inr (by rw [putY_y, outputNet_putY, hnet])⟩

/-- Settles O4: a step keeps the ports and the tables and records the output net. -/
theorem stepKeepsInvariant : Obligations.StepKeepsInvariant := by
  unfold Obligations.StepKeepsInvariant
  intro s s' hinv h
  exact inv_of_step hinv.positions hinv.promOnce hinv.opForm hinv.aForm hinv.kForm h

/-- A run that completes is its first move followed by a run of the others. -/
theorem runMoves_cons_eq_next {m : HostMove} {ms : List HostMove} {s s' : State} :
    runMoves (m :: ms) s = .next s' ↔ ∃ t, hostMove m s = .next t ∧ runMoves ms t = .next s' := by
  rw [runMoves]
  cases hostMove m s with
  | next t => simp
  | fault f => cases f
  | refused r => simp

/-- A host move whose ports are in their one form keeps the invariant. -/
theorem inv_of_hostMove {m : HostMove} {s s' : State}
    (hm : ∀ op a k, m = .evaluate op a k → op.Canonical ∧ a.Canonical ∧ k.Canonical) (hinv : Inv s)
    (h : hostMove m s = .next s') : Inv s' := by
  cases m with
  | reset =>
    cases h
    exact hinv
  | evaluate op a k =>
    obtain ⟨hop, ha, hk⟩ := hm op a k rfl
    exact inv_of_step (s := s.present op a k) hinv.positions hinv.promOnce hop ha hk h

/-- Settles O5, by induction on the moves. -/
theorem runsKeepInvariant : Obligations.RunsKeepInvariant := by
  unfold Obligations.RunsKeepInvariant
  intro ms
  induction ms with
  | nil =>
    intro s s' _ hinv h
    cases h
    exact hinv
  | cons m ms ih =>
    intro s s' hforms hinv h
    obtain ⟨t, hfirst, hrest⟩ := runMoves_cons_eq_next.mp h
    have ht : Inv t := inv_of_hostMove (fun op a k hm => hforms op a k (hm ▸ List.mem_cons_self)) hinv hfirst
    exact ih t s' (fun op a k hm => hforms op a k (List.mem_cons_of_mem _ hm)) ht hrest

end Sys2Proof.Machine
end

section
/-!
PROOF. 30_encoding.md: an operation word and the operation it selects (R70, R72).
-/

namespace Sys2Proof.Machine

/-- Settles O7: the three fields of the word give the instruction's operation code and operand ports back. -/
theorem decodeOfEncode : Obligations.DecodeOfEncode := by
  unfold Obligations.DecodeOfEncode
  exact fun _ => decodeWord_encode

/-- The opcode table's mask keeps the field `op` and clears the two operands. -/
theorem and_opMask (w : OpWord) : w &&& 0x7000000000000000000000000000000 = wordOp w ++ (0 : BitVec 120) := by
  have hmask : ∀ n : Fin 123, (0x7000000000000000000000000000000 : OpWord).getLsbD n = decide (120 ≤ n.val) := by
    decide
  apply BitVec.eq_of_getLsbD_eq
  intro n hn
  rw [BitVec.getLsbD_and, hmask ⟨n, hn⟩, BitVec.getLsbD_append, wordOp]
  by_cases h : n < 120
  · simp [h]
  · have hbit : 120 + (n - 120) = n := by omega
    have hop : n - 120 < 3 := by omega
    simp [h, hbit, hop, Nat.le_of_not_lt h]

/-- A word's bits under the mask are a row's match exactly when its field `op` is the row's operation code. -/
theorem and_opMask_eq_iff (w : OpWord) (op : OpCode) :
    w &&& 0x7000000000000000000000000000000 = op ++ (0 : BitVec 120) ↔ wordOp w = op := by
  rw [and_opMask]
  exact BitVec.append_left_inj _

/-- R72: the mnemonic depends on the operation code alone. -/
theorem mnemonic_decodePorts (op : OpCode) (a : Port 64) (k : Port 56) :
    (decodePorts op a k).mnemonic = (decodePorts op (.floating 64) (.floating 56)).mnemonic := by
  obtain ⟨n⟩ := op
  fin_cases n <;> rfl

/-- R72: no two operation codes share a mnemonic. -/
theorem mnemonic_injective :
    ∀ op op' : OpCode, (decodePorts op (.floating 64) (.floating 56)).mnemonic =
      (decodePorts op' (.floating 64) (.floating 56)).mnemonic → op = op' := by decide

/-- A row of the opcode table: the word matches it exactly when the word's operation has the row's mnemonic. -/
theorem matches_iff_mnemonic (w : OpWord) (op : OpCode) :
    w &&& 0x7000000000000000000000000000000 = op ++ (0 : BitVec 120) ↔
      (decodeWord w).mnemonic = (decodePorts op (.floating 64) (.floating 56)).mnemonic := by
  rw [and_opMask_eq_iff, decodeWord, mnemonic_decodePorts]
  exact ⟨fun h => by rw [h], mnemonic_injective _ _⟩

/-- Settles O10: each row's match is its operation code above 120 zeros. -/
theorem maskedWordSelectsOperation : Obligations.MaskedWordSelectsOperation := by
  unfold Obligations.MaskedWordSelectsOperation
  intro w
  exact ⟨matches_iff_mnemonic w 0, matches_iff_mnemonic w 1, matches_iff_mnemonic w 2, matches_iff_mnemonic w 3,
    matches_iff_mnemonic w 4, matches_iff_mnemonic w 5, matches_iff_mnemonic w 6, matches_iff_mnemonic w 7⟩

/-- Settles O11: eight words, decoded one by one. -/
theorem sampleWordsDecode : Obligations.SampleWordsDecode := by
  unfold Obligations.SampleWordsDecode
  decide

/-- Settles O12: the masks of both ports, bit by bit. -/
theorem readsFollowOperationMap : Obligations.ReadsFollowOperationMap := by
  unfold Obligations.ReadsFollowOperationMap
  exact ⟨by decide, by decide⟩

end Sys2Proof.Machine
end

section
/-!
PROOF. 70_reset_and_hazards.md, 60_exceptions.md: the step, its refusals, and what it leaves unchanged.
-/

namespace Sys2Proof.Machine

/-- R161: an operation is selected exactly when the three lines of `op` are driven. -/
theorem linesDriven_op_iff (s : State) : linesDriven s.op 2 0 ↔ s.opMissing = 0 :=
  linesDriven_iff_missing_of_lt (mask := BitVec.allOnes 3) s.op (by decide) (by decide)

/-- R183: a step with an operation selected runs the operation that stands on the ports. -/
theorem step_eq_exec {s : State} (h : s.opMissing = 0) : step s = exec (decodePorts s.op.value s.a s.k) s :=
  if_pos h

/-- R161: a step with no operation selected names the undriven lines of `op`. -/
theorem step_eq_refused {s : State} (h : s.opMissing ≠ 0) : step s = .refused (.undrivenOp s.opMissing) :=
  if_neg h

/-- Settles O13: with its lines driven, `op` selects the operation the step runs. -/
theorem stepRunsPortsOperation : Obligations.StepRunsPortsOperation := by
  unfold Obligations.StepRunsPortsOperation
  intro s h
  exact step_eq_exec ((linesDriven_op_iff s).mp h)

/-- R70: a step with a word on the ports runs the instruction the word decodes to. -/
theorem step_presentWord (s : State) (w : OpWord) :
    step (s.presentWord w) = exec (decodeWord w) (s.presentWord w) :=
  step_eq_exec (missing_drive (wordOp w) _)

/-- A number that decodes to an instruction is that of a word which decodes to it. -/
theorem decodeWord_of_decodeTableWord {nbits w : Nat} {i : Instr} (h : decodeTableWord nbits w = some i) :
    decodeWord (BitVec.ofNat 123 (w % 2 ^ nbits)) = i := by
  rw [decodeTableWord, decodeBits] at h
  by_cases hw : w % 2 ^ nbits < 2 ^ 123
  · rw [if_pos hw] at h
    exact Option.some.inj h
  · rw [if_neg hw] at h
    cases h

/-- Settles O14: a word drives every line of `op`, and `withFetchWord` presents the word of the number. -/
theorem stepRunsPresentedWord : Obligations.StepRunsPresentedWord := by
  unfold Obligations.StepRunsPresentedWord
  refine ⟨step_presentWord, ?_⟩
  intro s nbits w i h
  refine ⟨?_, rfl, rfl⟩
  rw [← decodeWord_of_decodeTableWord h]
  exact step_presentWord s _

/-- Settles O15: `op` is looked at first, then the lines that the selected operation reads; a refusal ends the run. -/
theorem evaluationIsRefusedExactlyWhenUndriven : Obligations.EvaluationIsRefusedExactlyWhenUndriven := by
  unfold Obligations.EvaluationIsRefusedExactlyWhenUndriven
  simp only [linesDriven_op_iff]
  refine ⟨?noOperation, ?undrivenInput, ?result, ?keptForTheRun⟩
  case noOperation =>
    intro s h
    refine ⟨s.opMissing, step_eq_refused h, h, fun n hn => ?_⟩
    rw [State.opMissing, missing_getLsbD, BitVec.getLsbD_allOnes, decide_eq_true hn, Bool.true_and]
  case undrivenInput =>
    intro s hop hundriven
    have hmissing : ¬(s.a.missing (reads s.op.value).a = 0 ∧ s.k.missing (reads s.op.value).k = 0) := by
      rw [missing_eq_zero_iff, missing_eq_zero_iff]
      rintro ⟨ha, hk⟩
      obtain ⟨n, ⟨hread, hfloat⟩ | ⟨hread, hfloat⟩⟩ := hundriven
      · exact Bool.false_ne_true (hfloat.symm.trans (ha n hread))
      · exact Bool.false_ne_true (hfloat.symm.trans (hk n hread))
    exact ⟨_, _, (step_of_driven hop).trans (evaluate_undriven _ s hmissing), missing_getLsbD _ _, missing_getLsbD _ _⟩
  case result =>
    intro s hop ha hk
    rw [step_of_driven hop]
    exact evaluate_driven _ s ((missing_eq_zero_iff _ _).mpr ha) ((missing_eq_zero_iff _ _).mpr hk)
  case keptForTheRun =>
    intro m ms s r h
    exact ⟨by rw [runMoves, h], by rw [observe, h]⟩

/-- Settles O17: an operation that completes has written `y`, which no other field and no output net depends on. -/
theorem operationWritesOnlyY : Obligations.OperationWritesOnlyY := by
  unfold Obligations.OperationWritesOnlyY
  intro i s s' h
  obtain ⟨-, -, rfl⟩ := exec_cases h
  simp only [putY_op, putY_a, putY_k, putY_tables, putY_y, outputNet_putY, true_and, and_true]
  exact Option.some_ne_none _

/-- No host move writes the tables (R23). -/
theorem tables_of_hostMove {m : HostMove} {s s' : State} (h : hostMove m s = .next s') : s'.tables = s.tables := by
  obtain ⟨-, rfl⟩ | ⟨op, a, k, -, -, -, -, rfl⟩ := hostMove_cases h
  · rfl
  · rw [putY_tables, present_tables]

/-- R180: a reset signal adds nothing to the observation of the run that follows it. -/
theorem observe_reset_cons (ms : List HostMove) (s : State) : observe (.reset :: ms) s = observe ms s := by
  have hmove : hostMove .reset s = .next s := rfl
  simp only [observe, hmove]
  cases observe ms s <;> rfl

/-- Settles O6: by induction on the moves before the reset signal. -/
theorem resetSignalHasNoEffect : Obligations.ResetSignalHasNoEffect := by
  unfold Obligations.ResetSignalHasNoEffect
  refine ⟨fun _ _ _ => tables_of_hostMove, fun s => ⟨s, rfl, rfl, rfl⟩, ?observation⟩
  case observation =>
    intro ms ms'
    induction ms with
    | nil => exact observe_reset_cons ms'
    | cons m ms ih =>
      intro s
      simp only [List.cons_append, observe, ih]

end Sys2Proof.Machine
end

section
/-!
PROOF. 40_primitives.md sections 1 and 3, 10_state.md: the bit maps of the E-box and the P-box, and their linearity.
-/

namespace Sys2Proof.Machine

/-- Two words are equal when they agree on the bits as R7 counts them, from the most significant one down. -/
theorem eq_of_getLsbD_from_top {m : Nat} {x y : BitVec m}
    (h : ∀ i : Fin m, x.getLsbD (m - 1 - i) = y.getLsbD (m - 1 - i)) : x = y := by
  apply BitVec.eq_of_getLsbD_eq
  intro n hn
  have hrev : m - 1 - (m - 1 - n) = n := by omega
  simpa only [hrev] using h ⟨m - 1 - n, by omega⟩

/-- R24: the listed input bit of each output bit of the E-box is the one its table entry names. -/
theorem eboxBitMap_eq : ∀ i : Fin 48, eboxBitMap[i] = 32 - (fipsTables.erom[i]).toNat := by decide

/-- R25: the listed input bit of each output bit of the P-box is the one its table entry names. -/
theorem pboxBitMap_eq : ∀ i : Fin 32, pboxBitMap[i] = 32 - (fipsTables.prom[i]).toNat := by decide

/-- R25: where an input bit lands, the P-box's bit map lists that input bit. -/
theorem pboxLandings_inverse :
    ∀ i : Fin 32, ∃ j : Fin 32, pboxLandings[i] = 31 - j.val ∧ pboxBitMap[j] = 31 - i.val := by
  decide

/-- R25, the default P-box bit by bit. -/
theorem permute_fipsTables_getLsbD (x : Half) (i : Fin 32) :
    (permute fipsTables x).getLsbD (31 - i) = x.getLsbD pboxBitMap[i] := by
  rw [permute_getLsbD fipsTables_wf, pboxBitMap_eq]

/-- Settles O23: the listed maps are those of the tables' entries, and the landings are the inverse of the P-box's. -/
theorem defaultTablesGiveListedBitMaps : Obligations.DefaultTablesGiveListedBitMaps := by
  unfold Obligations.DefaultTablesGiveListedBitMaps
  refine ⟨?ebox, permute_fipsTables_getLsbD, ?landings, by decide⟩
  case ebox =>
    intro x i
    rw [expand_getLsbD fipsTables_wf, eboxBitMap_eq]
  case landings =>
    intro x i
    obtain ⟨j, hland, hfrom⟩ := pboxLandings_inverse i
    rw [hland, permute_fipsTables_getLsbD, hfrom]

/-- Selecting bits by a table of positions is linear over XOR. -/
theorem selectBits_xor {m : Nat} {table : Vector (BitVec 6) m} (ht : ∀ i : Fin m, isPosition table[i]) (x y : Half) :
    selectBits table (x ^^^ y) = selectBits table x ^^^ selectBits table y := by
  apply eq_of_getLsbD_from_top
  intro i
  rw [BitVec.getLsbD_xor, selectBits_getLsbD, selectBits_getLsbD, selectBits_getLsbD, positionBit_xor x y (ht i)]

/-- R102: the E-box is linear over XOR. -/
theorem expand_xor {t : Tables} (ht : t.WF) (x y : Half) : expand t (x ^^^ y) = expand t x ^^^ expand t y :=
  selectBits_xor ht.1 x y

/-- R110: the P-box is linear over XOR. -/
theorem permute_xor {t : Tables} (ht : t.WF) (x y : Half) : permute t (x ^^^ y) = permute t x ^^^ permute t y :=
  selectBits_xor ht.2 x y

/-- R102: the E-box carries an input difference to the expansion of that difference. -/
theorem expand_xor_expand_xor {t : Tables} (ht : t.WF) (x d : Half) :
    expand t x ^^^ expand t (x ^^^ d) = expand t d := by
  rw [expand_xor ht, ← BitVec.xor_assoc, BitVec.xor_self, BitVec.zero_xor]

/-- R102: the difference 0x60000000, once expanded, stands in chunk 1 alone. -/
theorem chunk_expand_fipsTables_difference (x : Half) {i : Nat} (h1 : 1 ≤ i) (h8 : i ≤ 8) :
    chunk i (expand fipsTables x ^^^ expand fipsTables (x ^^^ 0x60000000)) = if i = 1 then 0xC else 0 := by
  have hchunks :
      ∀ i : Fin 9, 1 ≤ i.val → chunk i (expand fipsTables 0x60000000) = if i.val = 1 then 0xC else 0 := by
    decide +kernel
  rw [expand_xor_expand_xor fipsTables_wf]
  exact hchunks ⟨i, by omega⟩ h1

/-- Settles O25: by linearity the expanded difference is the expansion of the difference. -/
theorem expandIsLinear : Obligations.ExpandIsLinear := by
  unfold Obligations.ExpandIsLinear
  exact ⟨fun _ x y ht => expand_xor ht x y, fun x _ => chunk_expand_fipsTables_difference x⟩

/-- R110: the input bit that output bit `31 - i` of the P-box takes, counted like the output bit from the most
significant end. -/
def promSource (t : Tables) (ht : t.WF) (i : Fin 32) : Fin 32 :=
  ⟨(t.prom[i]).toNat - 1, by have := ht.2 i; omega⟩

/-- R108 from the most significant end. -/
theorem permute_getLsbD_promSource {t : Tables} (ht : t.WF) (o : Half) (i : Fin 32) :
    (permute t o).getLsbD (31 - i) = o.getLsbD (31 - promSource t ht i) := by
  have hpos := ht.2 i
  have hsource : 31 - ((t.prom[i]).toNat - 1) = 32 - (t.prom[i]).toNat := by omega
  rw [permute_getLsbD ht, promSource, hsource]

/-- R110: a P-box table that repeats no position names every position. -/
theorem promSource_bijective {t : Tables} (ht : t.WF) (honce : t.PromOnce) : Function.Bijective (promSource t ht) := by
  refine Finite.injective_iff_bijective.mp fun i j hij => honce i j (BitVec.eq_of_toNat_eq ?_)
  have hi := ht.2 i
  have hj := ht.2 j
  have hval : (t.prom[i]).toNat - 1 = (t.prom[j]).toNat - 1 := congrArg Fin.val hij
  omega

/-- R110: each input bit is some output bit, so that the output determines the input. -/
theorem permute_injective {t : Tables} (ht : t.WF) (honce : t.PromOnce) : Function.Injective (permute t) := by
  intro x y hxy
  apply eq_of_getLsbD_from_top
  intro i
  obtain ⟨j, rfl⟩ := (promSource_bijective ht honce).surjective i
  rw [← permute_getLsbD_promSource, ← permute_getLsbD_promSource, hxy]

/-- The number of set bits of a half, counted from the most significant end. -/
theorem countP_getLsbD_from_top (x : Half) :
    (List.range 32).countP (fun n => x.getLsbD n) = (List.finRange 32).countP fun i => x.getLsbD (31 - i.val) := by
  have hbits : (List.finRange 32).map (fun i => 31 - i.val) = (List.range 32).reverse := by decide
  rw [← List.countP_reverse, ← hbits, List.countP_map]
  rfl

/-- R110: the P-box only moves bits, so it keeps the number of set ones. -/
theorem countP_permute {t : Tables} (ht : t.WF) (honce : t.PromOnce) (x : Half) :
    (List.range 32).countP (fun n => (permute t x).getLsbD n) = (List.range 32).countP fun n => x.getLsbD n := by
  have hmoved := Equiv.Perm.map_finRange_perm (Equiv.ofBijective _ (promSource_bijective ht honce))
  have hcount := hmoved.countP_eq fun i => x.getLsbD (31 - i.val)
  rw [List.countP_map] at hcount
  rw [countP_getLsbD_from_top, countP_getLsbD_from_top]
  simp only [permute_getLsbD_promSource ht]
  exact hcount

/-- Settles O32: the P-box table is a permutation of the positions. -/
theorem permuteIsLinearBijection : Obligations.PermuteIsLinearBijection := by
  unfold Obligations.PermuteIsLinearBijection
  intro t ht honce
  exact ⟨Finite.injective_iff_bijective.mp (permute_injective ht honce), permute_xor ht, countP_permute ht honce⟩

end Sys2Proof.Machine
end

section
/-!
PROOF. 40_primitives.md sections 2 and 4: the lanes of the S-box bank, and the differences of an S-box.
-/

namespace Sys2Proof.Machine

/-- R104 with the lanes counted 1..8, as the chunks are. -/
theorem substitute_nibble_chunk (t : Tables) (S : Subkey) {j : Nat} (h1 : 1 ≤ j) (h8 : j ≤ 8) :
    (substitute t S).extractLsb' (32 - 4 * j) 4 = sbox t (BitVec.ofNat 3 (j - 1)) (chunk j S) := by
  obtain ⟨i, rfl⟩ := Nat.exists_eq_add_of_le' h1
  have hstart : 32 - 4 * (i + 1) = 28 - 4 * i := by omega
  rw [hstart, Nat.add_sub_cancel, substitute_nibble t S ⟨i, by omega⟩, BitVec.ofFin_eq_ofNat]

/-- Settles O28: a nibble depends on its own lane's chunk only. -/
theorem lanesAreIndependent : Obligations.LanesAreIndependent := by
  unfold Obligations.LanesAreIndependent
  intro t S S' i _ _ hchunks j h1 h8 hji
  rw [substitute_nibble_chunk t S h1 h8, substitute_nibble_chunk t S' h1 h8, hchunks j h1 h8 hji]

/-- Of the sixteen values exactly one is `v`. -/
theorem sum_ite_eq_value (v : BitVec 4) :
    ((List.finRange 16).map fun δ => if v == BitVec.ofFin δ then 1 else 0).sum = 1 := by
  revert v
  decide

/-- The sixteen values part a list between them: each element is counted for one value. -/
theorem sum_countP_eq_length {α : Type} (f : α → BitVec 4) (xs : List α) :
    ((List.finRange 16).map fun δ => xs.countP fun x => f x == BitVec.ofFin δ).sum = xs.length := by
  induction xs with
  | nil => simp
  | cons x xs ih => simp only [List.countP_cons, List.sum_map_add, ih, sum_ite_eq_value, List.length_cons]

/-- Equal inputs have output difference 0. -/
theorem differenceCount_zero (t : Tables) (j : BitVec 3) (δ : BitVec 4) :
    differenceCount t j 0 δ = if δ = 0 then 64 else 0 := by
  simp only [differenceCount, BitVec.ofNat_eq_ofNat, BitVec.xor_zero, BitVec.xor_self]
  split
  case isTrue h =>
    subst h
    simp
  case isFalse h =>
    simp [Ne.symm h]

/-- Settles O33: each of the 64 inputs has one output difference, and the default boxes are counted through. -/
theorem sboxRowsAreBalanced : Obligations.SboxRowsAreBalanced := by
  unfold Obligations.SboxRowsAreBalanced
  refine ⟨?rowSum, differenceCount_zero, ?preimages, ?rows⟩
  case rowSum =>
    intro t j d
    simp only [differenceCount, sum_countP_eq_length, List.length_finRange]
  case preimages => decide +kernel
  case rows => decide +kernel

end Sys2Proof.Machine
end

section
/-!
PROOF. 41_round_and_cipher.md section 3: the inverse of the cipher, and differences through the round and the cipher.
-/

namespace Sys2Proof.Machine

/-- R139: the recurrence recovers the plaintext. -/
theorem recover_encryptWith (f : Half → Subkey → Half) (k : Key) (p : Block) : recover f k (encryptWith f k p) = p := by
  simp [recover, encryptWith, append_halves]

/-- R139: every block is the ciphertext of what the recurrence recovers from it. -/
theorem encryptWith_recover (f : Half → Subkey → Half) (k : Key) (c : Block) : encryptWith f k (recover f k c) = c := by
  simp [recover, encryptWith, append_halves]

/-- Settles O42: `recover` is the inverse of the cipher, on both sides. -/
theorem cipherIsInvertible : Obligations.CipherIsInvertible := by
  unfold Obligations.CipherIsInvertible
  refine ⟨recover_encryptWith, encryptWith_recover, ?onto, ?oneToOne⟩
  case onto =>
    intro s k c
    rw [exec_enc2_drive, encryptTwoRound_eq_encryptWith, encryptWith_recover]
  case oneToOne =>
    intro s s1 s2 a b k h1 h2 hy
    obtain ⟨-, -, rfl⟩ := exec_cases h1
    obtain ⟨-, -, rfl⟩ := exec_cases h2
    have hc : encryptWith (feistel s.tables) k.value a.value = encryptWith (feistel s.tables) k.value b.value :=
      Option.some.inj hy
    rw [← recover_encryptWith (feistel s.tables) k.value a.value, hc, recover_encryptWith]

/-- R141: the post-P-box XOR cancels in a difference of two rounds under one subkey. -/
theorem feistel_xor_feistel {t : Tables} (ht : t.WF) (r r' : Half) (k : Subkey) :
    feistel t r k ^^^ feistel t r' k =
      permute t (substitute t (expand t r ^^^ k) ^^^ substitute t (expand t r' ^^^ k)) := by
  rw [permute_xor ht, feistel, feistel, BitVec.xor_assoc, BitVec.xor_comm (permute t _) (k.extractLsb' 0 32),
    xor_cancel_left]

/-- Settles O44: the XOR cancels, and inputs with difference 0 are one input. -/
theorem roundDifferenceIgnoresPostXor : Obligations.RoundDifferenceIgnoresPostXor := by
  unfold Obligations.RoundDifferenceIgnoresPostXor
  refine ⟨fun _ r r' k ht => feistel_xor_feistel ht r r' k, ?_⟩
  intro t r r' k h
  rw [BitVec.xor_eq_zero_iff.mp h, BitVec.xor_self]
  rfl

/-- A block determines its halves. -/
theorem append_half_inj {x x' y y' : Half} : x ++ y = x' ++ y' ↔ x = x' ∧ y = y' := by
  constructor
  · intro h
    exact ⟨by simpa using congrArg highHalf h, by simpa using congrArg lowHalf h⟩
  · rintro ⟨rfl, rfl⟩
    rfl

/-- The difference of two sums is the sum of the differences. -/
theorem xor_xor_xor_swap (x a x' a' : Half) : (x ^^^ a) ^^^ (x' ^^^ a') = (x ^^^ x') ^^^ (a ^^^ a') := by
  ac_rfl

/-- Two sums are equal exactly when their parts have the same difference. -/
theorem xor_eq_xor_iff {x x' a a' : Half} : x ^^^ a = x' ^^^ a' ↔ x ^^^ x' = a ^^^ a' := by
  rw [← BitVec.xor_eq_zero_iff, xor_xor_xor_swap, BitVec.xor_eq_zero_iff]

/-- R135: the ciphertext difference is the plaintext's right-half difference, and nothing else, exactly when both
encryptions leave round 1 with one right half. -/
theorem encryptWith_xor_eq_iff (f : Half → Subkey → Half) (k : Key) (p p' : Block) :
    encryptWith f k p ^^^ encryptWith f k p' = (0 : Half) ++ (lowHalf p ^^^ lowHalf p') ↔
      highHalf p ^^^ highHalf p' = f (lowHalf p) (subkey1 k) ^^^ f (lowHalf p') (subkey1 k) := by
  rw [encryptWith, encryptWith, BitVec.xor_append, append_half_inj, BitVec.ofNat_eq_ofNat, BitVec.xor_eq_zero_iff,
    xor_eq_xor_iff]
  refine and_iff_left_of_imp fun hr1 => ?_
  rw [xor_eq_xor_iff.mpr hr1, xor_xor_xor_swap, BitVec.xor_self, BitVec.xor_zero]

/-- R104: a half is its eight nibbles. -/
theorem half_eq_iff_nibbles {x y : Half} :
    x = y ↔ ∀ j, 1 ≤ j → j ≤ 8 → x.extractLsb' (32 - 4 * j) 4 = y.extractLsb' (32 - 4 * j) 4 := by
  refine ⟨fun h _ _ _ => by rw [h], fun h => BitVec.eq_of_getLsbD_eq fun n hn => ?_⟩
  have hbit : 32 - 4 * (8 - n / 4) + n % 4 = n := by omega
  have hnibble := congrArg (fun v => v.getLsbD (n % 4)) (h (8 - n / 4) (by omega) (by omega))
  simpa [hbit, Nat.mod_lt] using hnibble

/-- The nibbles of a half that is 0 below its first one. -/
theorem extractLsb'_append_zero (δ : BitVec 4) {j : Nat} (h1 : 1 ≤ j) :
    (δ ++ (0 : BitVec 28)).extractLsb' (32 - 4 * j) 4 = if j = 1 then δ else 0 := by
  split
  case isTrue h =>
    subst h
    exact extract_append_high (w := 32) rfl δ 0
  case isFalse h =>
    rw [BitVec.extractLsb'_append_eq_of_add_le (by omega), BitVec.ofNat_eq_ofNat, BitVec.extractLsb'_zero]
    rfl

/-- R107: where only chunk 1 differs, the bank's output difference is that of S1, in the first nibble. -/
theorem substitute_xor_eq_iff (t : Tables) {S S' : Subkey}
    (h : ∀ j, 1 ≤ j → j ≤ 8 → j ≠ 1 → chunk j S = chunk j S') (δ : BitVec 4) :
    substitute t S ^^^ substitute t S' = δ ++ (0 : BitVec 28) ↔ sbox t 0 (chunk 1 S) ^^^ sbox t 0 (chunk 1 S') = δ := by
  rw [half_eq_iff_nibbles]
  constructor
  · intro hnibbles
    have hfirst := hnibbles 1 le_rfl (by decide)
    rwa [extractLsb'_append_zero δ le_rfl, if_pos rfl, BitVec.extractLsb'_xor,
      substitute_nibble_chunk t S le_rfl (by decide), substitute_nibble_chunk t S' le_rfl (by decide)] at hfirst
  · intro hfirst j h1 h8
    rw [extractLsb'_append_zero δ h1, BitVec.extractLsb'_xor, substitute_nibble_chunk t S h1 h8,
      substitute_nibble_chunk t S' h1 h8]
    split
    case isTrue hj =>
      subst hj
      exact hfirst
    case isFalse hj =>
      rw [h j h1 h8 hj, BitVec.xor_self]
      rfl

/-- R102: the difference 0x60000000 in the right half leaves every chunk but the first as it was, under any subkey. -/
theorem chunk_expand_xor_subkey (r : Half) (k : Subkey) {j : Nat} (h1 : 1 ≤ j) (h8 : j ≤ 8) (hj : j ≠ 1) :
    chunk j (expand fipsTables r ^^^ k) = chunk j (expand fipsTables (r ^^^ 0x60000000) ^^^ k) := by
  have hzero := chunk_expand_fipsTables_difference r h1 h8
  rw [if_neg hj, chunk, BitVec.extractLsb'_xor] at hzero
  rw [chunk, chunk, BitVec.extractLsb'_xor, BitVec.extractLsb'_xor, BitVec.xor_eq_zero_iff.mp hzero]

/-- Settles O45: the difference comes through exactly when round 1's difference cancels the left halves', which is the
P-box's image of the output difference 0xD of S1 alone. -/
theorem rightPairIsSboxDifference : Obligations.RightPairIsSboxDifference := by
  unfold Obligations.RightPairIsSboxDifference
  intro s k p ht
  refine ⟨_, _, exec_enc2_drive _ _ s, exec_enc2_drive _ _ s, ?_⟩
  have hlow : lowHalf (p ^^^ 0x0080800260000000) = lowHalf p ^^^ 0x60000000 := BitVec.extractLsb'_xor
  have hhigh : highHalf (p ^^^ 0x0080800260000000) = highHalf p ^^^ 0x00808002 := BitVec.extractLsb'_xor
  have hpbox : permute fipsTables ((0xD : BitVec 4) ++ (0 : BitVec 28)) = 0x00808002 := by decide +kernel
  have hcipher : (0x0000000060000000 : Block) =
      (0 : Half) ++ (lowHalf p ^^^ lowHalf (p ^^^ 0x0080800260000000)) := by
    rw [hlow, xor_cancel_left]
    rfl
  rw [ht, encryptTwoRound_eq_encryptWith, encryptTwoRound_eq_encryptWith, hcipher, encryptWith_xor_eq_iff,
    feistel_xor_feistel fipsTables_wf, hhigh, hlow, xor_cancel_left, ← hpbox,
    (permute_injective fipsTables_wf fipsTables_promOnce).eq_iff, eq_comm]
  exact substitute_xor_eq_iff fipsTables (fun _ => chunk_expand_xor_subkey (lowHalf p) (subkey1 k)) 0xD

end Sys2Proof.Machine
end

section
/-!
PROOF. 20_memory.md, 70_reset_and_hazards.md: runs of host moves and of host programs, and what is observed of them.
-/

namespace Sys2Proof.Machine

/-- The outcome of an evaluation on the unit in state `s` that is answered so. -/
def outcomeOf (s : State) : Except Refusal Block → Host.Outcome State Fault Refusal
  | .ok v => .next (s.putY v)
  | .error r => .refused r

/-- R58, R161: in every state a host's evaluation answers what the unit answers to its inputs alone. -/
theorem hostMove_evaluate (op : Port 3) (a : Port 64) (k : Port 56) (s : State) :
    hostMove (.evaluate op a k) s = outcomeOf (s.present op a k) (answerAlone s.tables op a k) := by
  change step (s.present op a k) = _
  by_cases hop : op.missing (BitVec.allOnes 3) = 0
  · rw [step_of_driven (s := s.present op a k) hop, answerAlone, if_neg (not_not.mpr hop), evaluate,
      apply_ite (outcomeOf (s.present op a k))]
    rfl
  · rw [step_eq_refused (s := s.present op a k) hop, answerAlone, if_pos hop]
    rfl

/-- Settles O46, by induction on the moves: a move leaves the tables as they were, and an answer depends on them and on
the move's own inputs alone. -/
theorem runIsItsEvaluationsAlone : Obligations.RunIsItsEvaluationsAlone := by
  unfold Obligations.RunIsItsEvaluationsAlone
  intro ms
  induction ms with
  | nil => exact fun _ => rfl
  | cons m ms ih =>
    intro s
    cases m with
    | reset => rw [observe_reset_cons, ih, answersAlone]
    | evaluate op a k =>
      rw [observe, hostMove_evaluate, answersAlone]
      cases answerAlone s.tables op a k with
      | error r => rfl
      | ok v =>
        have htail : observe ms ((s.present op a k).putY v) = answersAlone s.tables ms := ih _
        simp only [outcomeOf, htail]
        cases answersAlone s.tables ms <;> rfl

/-- R187: what a move adds to the observation of the run it begins. -/
theorem observe_cons_of_next {m : HostMove} {ms : List HostMove} {s t : State} {ys : List Block}
    (hfirst : hostMove m s = .next t) (hrest : observe ms t = .ok ys) :
    observe (m :: ms) s = .ok (readBack m t ++ ys) := by
  rw [observe, hfirst]
  simp only [hrest]

/-- R186: after a move that completed the host reads the value of the move's evaluation, if it is one. -/
theorem readBack_of_hostMove {m : HostMove} {s t : State} (h : hostMove m s = .next t) :
    readBack m t = evaluationValues s.tables [m] := by
  obtain ⟨rfl, rfl⟩ | ⟨op, a, k, rfl, -, -, -, rfl⟩ := hostMove_cases h
  · rfl
  · rfl

/-- R187: the observation of a run that completes. -/
theorem observe_of_runMoves {ms : List HostMove} {s s' : State} (h : runMoves ms s = .next s') :
    observe ms s = .ok (evaluationValues s.tables ms) := by
  induction ms generalizing s with
  | nil => rfl
  | cons m ms ih =>
    obtain ⟨t, hfirst, hrest⟩ := runMoves_cons_eq_next.mp h
    rw [observe_cons_of_next hfirst (ih hrest), readBack_of_hostMove hfirst, tables_of_hostMove hfirst,
      evaluationValues, evaluationValues, ← List.flatMap_append, List.singleton_append, evaluationValues]

/-- R187: one value for each evaluation. -/
theorem length_evaluationValues (t : Tables) (ms : List HostMove) :
    (evaluationValues t ms).length = ms.countP (· ≠ .reset) := by
  induction ms with
  | nil => rfl
  | cons m ms ih =>
    have hcons : evaluationValues t (m :: ms) = evaluationValues t [m] ++ evaluationValues t ms :=
      List.flatMap_append (xs := [m])
    rw [hcons, List.length_append, ih, List.countP_cons, Nat.add_comm]
    cases m <;> rfl

/-- R187: a run with a refused evaluation has no observation, whatever stands before and after it. -/
theorem observe_append_of_refused {ms : List HostMove} (ms' : List HostMove) {m : HostMove} {s s' : State} {r : Refusal}
    (hrun : runMoves ms s = .next s') (hrefused : hostMove m s' = .refused r) :
    observe (ms ++ m :: ms') s = .error r := by
  induction ms generalizing s with
  | nil =>
    cases hrun
    rw [List.nil_append, observe, hrefused]
  | cons m₀ ms ih =>
    obtain ⟨t, hfirst, hrest⟩ := runMoves_cons_eq_next.mp hrun
    rw [List.cons_append, observe, hfirst]
    simp only [ih hrest]

/-- A host program that ends is its first statement followed by a program of the others. -/
theorem runProgram_cons_eq_ok {st : HostStmt} {sts : List HostStmt} {r r' : HostRun} :
    runProgram (st :: sts) r = .ok r' ↔ ∃ t, runStmt st r = .ok t ∧ runProgram sts t = .ok r' := by
  rw [runProgram]
  cases runStmt st r with
  | ok t => simp
  | error e => simp

/-- A statement that stops ends the host program, whatever stands before and after it. -/
theorem runProgram_append_of_error {p : List HostStmt} (q : List HostStmt) {st : HostStmt} {r₀ r : HostRun}
    {e : HostStop} (hrun : runProgram p r₀ = .ok r) (hstop : runStmt st r = .error e) : runProgram (p ++ st :: q) r₀ = .error e := by
  induction p generalizing r₀ with
  | nil =>
    cases hrun
    rw [List.nil_append, runProgram, hstop]
  | cons st₀ p ih =>
    obtain ⟨t, hfirst, hrest⟩ := runProgram_cons_eq_ok.mp hrun
    rw [List.cons_append, runProgram, hfirst]
    exact ih hrest

/-- Settles O47: completed moves and statements leave the observation to what follows, and a refusal or stop ends it. -/
theorem refusedRunHasNoObservation : Obligations.RefusedRunHasNoObservation := by
  unfold Obligations.RefusedRunHasNoObservation
  refine ⟨?moves, fun _ ms' _ _ _ _ => observe_append_of_refused ms', ?program, ?stoppedProgram⟩
  case moves =>
    intro ms s s' h
    exact ⟨observe_of_runMoves h, length_evaluationValues s.tables ms⟩
  case program =>
    intro p s r h
    rw [programObservation, h]
  case stoppedProgram =>
    intro p q st s r e hrun hstop
    rw [programObservation, runProgram_append_of_error q hrun hstop]

end Sys2Proof.Machine
end

section
/-!
PROOF. 10_state.md, 60_exceptions.md: several units share nothing (R31, R170).
-/

namespace Sys2Proof.Machine

/-- A run of a system that completes is its first move followed by a run of the others. -/
theorem runSystem_cons_eq_next {n : Nat} {i : Fin n} {m : HostMove} {ms : List (Fin n × HostMove)}
    {sys sys' : System n} :
    runSystem ((i, m) :: ms) sys = .next sys' ↔
      ∃ s, hostMove m sys[i] = .next s ∧ runSystem ms (sys.set i s) = .next sys' := by
  rw [runSystem, systemMove]
  cases hostMove m sys[i] with
  | next s => simp
  | fault f => cases f
  | refused r => simp

/-- A run of a system is refused at its first move or after it. -/
theorem runSystem_cons_refused_iff {n : Nat} {i : Fin n} {m : HostMove} {ms : List (Fin n × HostMove)}
    {sys : System n} :
    (∃ r, runSystem ((i, m) :: ms) sys = .refused r) ↔
      (∃ r, hostMove m sys[i] = .refused r) ∨
        ∃ s, hostMove m sys[i] = .next s ∧ ∃ r, runSystem ms (sys.set i s) = .refused r := by
  rw [runSystem, systemMove]
  cases hostMove m sys[i] with
  | next s => simp
  | fault f => cases f
  | refused r => simp

/-- A unit that makes no move among `ms` is another one than a unit that does. -/
theorem ne_of_not_mem_units {n : Nat} {i j : Fin n} {m : HostMove} {ms : List (Fin n × HostMove)}
    (hi : i ∉ ms.map Prod.fst) (hj : (j, m) ∈ ms) : j ≠ i :=
  fun h => hi (h ▸ List.mem_map_of_mem hj)

/-- R31: where no unit moves twice, a run completes exactly when each unit that moves completes its move from where it
stood at the start, and the others stay where they stood. -/
theorem runSystem_eq_next_iff {n : Nat} {ms : List (Fin n × HostMove)} {sys sys' : System n}
    (hnodup : (ms.map Prod.fst).Nodup) :
    runSystem ms sys = .next sys' ↔
      (∀ i m, (i, m) ∈ ms → hostMove m sys[i] = .next sys'[i]) ∧ ∀ j, j ∉ ms.map Prod.fst → sys'[j] = sys[j] := by
  induction ms generalizing sys with
  | nil =>
    simp only [runSystem, Host.Outcome.next.injEq, List.not_mem_nil, IsEmpty.forall_iff, implies_true, true_and,
      List.map_nil, not_false_eq_true, forall_const]
    exact ⟨fun h _ => by rw [h], fun h => Vector.ext fun j hj => (h ⟨j, hj⟩).symm⟩
  | cons move ms ih =>
    obtain ⟨i, m⟩ := move
    obtain ⟨hi, hrest⟩ := List.nodup_cons.mp hnodup
    rw [runSystem_cons_eq_next]
    constructor
    · rintro ⟨s, hfirst, hrun⟩
      obtain ⟨hmoved, hstayed⟩ := (ih hrest).mp hrun
      have hs : sys'[i] = s := (hstayed i hi).trans (system_set_self sys i s)
      constructor
      · intro j m' hj
        obtain heq | hj := List.mem_cons.mp hj
        · cases heq
          rw [hfirst, hs]
        · rw [← system_set_ne sys s (ne_of_not_mem_units hi hj), hmoved j m' hj]
      · intro j hj
        obtain ⟨hji, hjms⟩ := not_or.mp (mt List.mem_cons.mpr hj)
        rw [hstayed j hjms, system_set_ne sys s hji]
    · rintro ⟨hmoved, hstayed⟩
      refine ⟨sys'[i], hmoved i m List.mem_cons_self, (ih hrest).mpr ⟨?_, ?_⟩⟩
      · intro j m' hj
        rw [system_set_ne sys _ (ne_of_not_mem_units hi hj), hmoved j m' (List.mem_cons_of_mem _ hj)]
      · intro j hj
        by_cases hji : j = i
        · rw [hji, system_set_self]
        · rw [system_set_ne sys _ hji]
          exact hstayed j (mt List.mem_cons.mp (not_or.mpr ⟨hji, hj⟩))

/-- R31: where no unit moves twice, a run is refused exactly when some unit's move is refused where it stood at the
start. -/
theorem runSystem_refused_iff {n : Nat} {ms : List (Fin n × HostMove)} {sys : System n}
    (hnodup : (ms.map Prod.fst).Nodup) :
    (∃ r, runSystem ms sys = .refused r) ↔ ∃ i m r, (i, m) ∈ ms ∧ hostMove m sys[i] = .refused r := by
  induction ms generalizing sys with
  | nil => simp [runSystem]
  | cons move ms ih =>
    obtain ⟨i, m⟩ := move
    obtain ⟨hi, hrest⟩ := List.nodup_cons.mp hnodup
    rw [runSystem_cons_refused_iff]
    constructor
    · rintro (⟨r, hfirst⟩ | ⟨s, -, hrun⟩)
      · exact ⟨i, m, r, List.mem_cons_self, hfirst⟩
      · obtain ⟨j, m', r, hj, hrefused⟩ := (ih hrest).mp hrun
        rw [system_set_ne sys s (ne_of_not_mem_units hi hj)] at hrefused
        exact ⟨j, m', r, List.mem_cons_of_mem _ hj, hrefused⟩
    · rintro ⟨j, m', r, hj, hrefused⟩
      cases hfirst : hostMove m sys[i] with
      | fault f => cases f
      | refused r' => exact .inl ⟨r', rfl⟩
      | next s =>
        obtain heq | hj := List.mem_cons.mp hj
        · cases heq
          rw [hfirst] at hrefused
          cases hrefused
        · refine .inr ⟨s, rfl, (ih hrest).mpr ⟨j, m', r, hj, ?_⟩⟩
          rw [system_set_ne sys s (ne_of_not_mem_units hi hj), hrefused]

section simultaneousMoves

variable {n : Nat} {moves : Vector (Option HostMove) n} {j : Fin n}

/-- A unit that makes a move answers with that move's outcome. -/
theorem simultaneousMoves_of_some {m : HostMove} (sys : System n) (h : moves[j] = some m) :
    (simultaneousMoves moves sys)[j] = hostMove m sys[j] := by
  rw [simultaneousMoves_getElem, h]

/-- A unit that makes no move stays where it stood. -/
theorem simultaneousMoves_of_none (sys : System n) (h : moves[j] = none) :
    (simultaneousMoves moves sys)[j] = .next sys[j] := by
  rw [simultaneousMoves_getElem, h]

/-- A list that names the units' moves leaves out exactly the units that make none. -/
theorem not_mem_units_iff {ms : List (Fin n × HostMove)} (hmoves : ∀ i m, (i, m) ∈ ms ↔ moves[i] = some m) :
    j ∉ ms.map Prod.fst ↔ moves[j] = none := by
  rw [Option.eq_none_iff_forall_ne_some]
  simp only [ne_eq, ← hmoves, List.mem_map, Prod.exists, exists_and_right, exists_eq_right, not_exists]

end simultaneousMoves

/-- Settles O48: a unit's move reads and writes its own place of the vector. -/
theorem unitsShareNothing : Obligations.UnitsShareNothing := by
  unfold Obligations.UnitsShareNothing
  refine ⟨?others, ?eitherOrder, ?refusedEitherWay, ?sameTime, ?ownOutcome⟩
  case others =>
    intro n i j m sys sys' h hji
    obtain ⟨s, -, rfl⟩ := systemMove_eq_next.mp h
    exact system_set_ne sys s hji
  case eitherOrder =>
    intro n i j m m' sys sys1 sys2 hij h1 h2
    obtain ⟨s, hs, rfl⟩ := systemMove_eq_next.mp h1
    obtain ⟨s', hs', rfl⟩ := systemMove_eq_next.mp h2
    rw [system_set_ne sys s hij.symm] at hs'
    refine ⟨_, systemMove_eq_next.mpr ⟨s', hs', rfl⟩, systemMove_eq_next.mpr ⟨s, ?_, ?_⟩⟩
    · rw [system_set_ne sys s' hij, hs]
    · exact Vector.set_comm _ _ (Fin.val_ne_of_ne hij)
  case refusedEitherWay =>
    intro n i j m m' sys sys1 r hij h
    obtain ⟨s, -, rfl⟩ := systemMove_eq_next.mp h
    rw [systemMove_eq_refused, systemMove_eq_refused, system_set_ne sys s hij]
  case sameTime =>
    intro n moves ms sys hnodup hmoves
    constructor
    · intro sys'
      rw [runSystem_eq_next_iff hnodup]
      constructor
      · rintro ⟨hmoved, hstayed⟩ j
        cases hj : moves[j] with
        | none => rw [simultaneousMoves_of_none sys hj, hstayed j ((not_mem_units_iff hmoves).mpr hj)]
        | some m => rw [simultaneousMoves_of_some sys hj, hmoved j m ((hmoves j m).mpr hj)]
      · intro hall
        constructor
        · intro i m hi
          rw [← hall i, simultaneousMoves_of_some sys ((hmoves i m).mp hi)]
        · intro j hj
          have hnone := simultaneousMoves_of_none sys ((not_mem_units_iff hmoves).mp hj)
          exact Host.Outcome.next.inj ((hall j).symm.trans hnone)
    · rw [runSystem_refused_iff hnodup]
      constructor
      · rintro ⟨i, m, r, hi, hrefused⟩
        exact ⟨i, r, (simultaneousMoves_of_some sys ((hmoves i m).mp hi)).trans hrefused⟩
      · rintro ⟨i, r, hrefused⟩
        cases hi : moves[i] with
        | none =>
          rw [simultaneousMoves_of_none sys hi] at hrefused
          cases hrefused
        | some m =>
          rw [simultaneousMoves_of_some sys hi] at hrefused
          exact ⟨i, m, r, (hmoves i m).mpr hi, hrefused⟩
  case ownOutcome =>
    intro n moves moves' sys sys' j hmove hstate
    rw [simultaneousMoves_getElem, simultaneousMoves_getElem, hmove, hstate]

end Sys2Proof.Machine
end

section
/-!
PROOF. 30_encoding.md section 5: assembler lines (R77) and host statements (R79).
-/

namespace Sys2Proof.Machine

/-- R77: a value wider than its port is an error. -/
theorem assemble_of_too_wide (op : OpCode) {a k : Nat} (h : 2 ^ 64 ≤ a ∨ 2 ^ 56 ≤ k) :
    assemble (.operation op a k) = .error .valueTooWide :=
  if_neg fun hfits => h.elim hfits.1.not_ge hfits.2.not_ge

/-- Settles O49: a line's word is `op ‖ k ‖ a`, and the four fixed texts are read character by character. -/
theorem lineAssemblesToWord : Obligations.LineAssemblesToWord := by
  unfold Obligations.LineAssemblesToWord
  refine ⟨?fits, fun op _ _ => assemble_of_too_wide op, by decide +kernel, by decide +kernel⟩
  case fits =>
    intro op a k
    exact ⟨_, assemble_of_expansion (line := .operation op a.toNat k.toNat) rfl, decodeWord_append op k a⟩

/-- Driving all lines but those of `float` leaves missing the needed ones among `float`. -/
theorem missing_driveOnly {n : Nat} (float v need : BitVec n) :
    (Port.driveOnly (~~~float) v).missing need = need &&& float := by
  rw [Port.missing, Port.driveOnly, BitVec.not_not]

/-- Driving all lines but none drives them all. -/
theorem driveOnly_not_zero {n : Nat} (v : BitVec n) : Port.driveOnly (~~~0) v = .drive v := by
  simp [Port.driveOnly, Port.drive]

/-- R79: an operation statement with operands that have values and a key that fits is the host's evaluation. -/
theorem runStmt_operation {r : HostRun} {a k : HostExpr} {x y : Block} (ha : hostValue r.names a = .ok x)
    (hk : hostValue r.names k = .ok y) (hy : y.toNat < 2 ^ 56) (v : String) (op : OpCode) (aFloat : BitVec 64)
    (kFloat : BitVec 56) :
    runStmt (.operation v op a k aFloat kFloat) r =
      runOperation v (.evaluate (.drive op) (.driveOnly (~~~aFloat) x) (.driveOnly (~~~kFloat) (y.setWidth 56))) r := by
  simp only [runStmt, ha, hk, if_pos hy]

/-- R77: an operation statement with a key that is too wide stops. -/
theorem runStmt_operation_of_too_wide {r : HostRun} {a k : HostExpr} {x y : Block} (ha : hostValue r.names a = .ok x)
    (hk : hostValue r.names k = .ok y) (hy : 2 ^ 56 ≤ y.toNat) (v : String) (op : OpCode) (aFloat : BitVec 64)
    (kFloat : BitVec 56) : runStmt (.operation v op a k aFloat kFloat) r = .error .valueTooWide := by
  simp only [runStmt, ha, hk, if_neg hy.not_gt]

/-- The unit's answer to driven inputs is `eval` of them. -/
theorem answerAlone_drive (t : Tables) (op : OpCode) (a : Block) (k : Key) :
    answerAlone t (.drive op) (.drive a) (.drive k) = .ok (eval t op a k) := by
  simp [answerAlone, undriven, drive_value]

/-- R161: the unit's answer to operands of which a read line floats names the read lines that float. -/
theorem answerAlone_driveOnly_of_read {op : OpCode} {aFloat : BitVec 64} {kFloat : BitVec 56}
    (h : (reads op).a &&& aFloat ≠ 0 ∨ (reads op).k &&& kFloat ≠ 0) (t : Tables) (x : Block) (y : Key) :
    answerAlone t (.drive op) (.driveOnly (~~~aFloat) x) (.driveOnly (~~~kFloat) y) =
      .error (.undrivenInput op ((reads op).a &&& aFloat) ((reads op).k &&& kFloat)) := by
  simp only [answerAlone, undriven, drive_value, missing_drive, missing_driveOnly]
  rw [if_neg (not_not.mpr rfl), if_neg (not_and_or.mpr h)]

/-- R79: an evaluation that completes names its `y` and adds it to the observation. -/
theorem runOperation_of_answer {op : Port 3} {a : Port 64} {k : Port 56} {r : HostRun} {z : Block}
    (h : answerAlone r.unit.tables op a k = .ok z) (v : String) :
    runOperation v (.evaluate op a k) r =
      .ok { unit := (r.unit.present op a k).putY z, names := nameValue v z r.names, ys := r.ys ++ [z] } := by
  rw [runOperation, hostMove_evaluate, h]
  rfl

/-- R187: an evaluation that is refused stops the program. -/
theorem runOperation_of_refusal {op : Port 3} {a : Port 64} {k : Port 56} {r : HostRun} {e : Refusal}
    (h : answerAlone r.unit.tables op a k = .error e) (v : String) :
    runOperation v (.evaluate op a k) r = .error (.refused e) := by
  rw [runOperation, hostMove_evaluate, h]
  rfl

/-- R79: an operation statement that floats no line puts `eval` of its operands' values on `y` and names it. -/
theorem runStmt_operation_drive {r : HostRun} {a k : HostExpr} {x y : Block} (ha : hostValue r.names a = .ok x)
    (hk : hostValue r.names k = .ok y) (hy : y.toNat < 2 ^ 56) (v : String) (op : OpCode) :
    runStmt (.operation v op a k 0 0) r =
      .ok { unit := (r.unit.present (.drive op) (.drive x) (.drive (y.setWidth 56))).putY
              (eval r.unit.tables op x (y.setWidth 56))
            names := nameValue v (eval r.unit.tables op x (y.setWidth 56)) r.names
            ys := r.ys ++ [eval r.unit.tables op x (y.setWidth 56)] } := by
  rw [runStmt_operation ha hk hy, driveOnly_not_zero, driveOnly_not_zero]
  exact runOperation_of_answer (answerAlone_drive _ op x (y.setWidth 56)) v

/-- R79: a compute statement names the value of its expression. -/
theorem runStmt_compute {r : HostRun} {e : HostExpr} {x : Block} (he : hostValue r.names e = .ok x) (v : String) :
    runStmt (.compute v e) r = .ok { r with names := nameValue v x r.names } := by
  simp only [runStmt, he]

/-- R79: bit by bit, `x & MASK_n` keeps the bits below `n`. -/
theorem getLsbD_and_mask (u : Block) (n b : Nat) :
    (u &&& BitVec.ofNat 64 (2 ^ n - 1)).getLsbD b = (decide (b < n) && u.getLsbD b) := by
  rw [BitVec.getLsbD_and, BitVec.getLsbD_ofNat, Nat.testBit_two_pow_sub_one]
  by_cases hb : b < 64
  · simp [hb, Bool.and_comm]
  · rw [BitVec.getLsbD_of_ge u b (Nat.le_of_not_lt hb), Bool.false_and, Bool.and_false]

/-- R79: the low half of `(x << 32) | y` is that of `y`. -/
theorem getLsbD_join_low (u w : Block) {b : Nat} (hb : b < 32) : ((u <<< 32) ||| w).getLsbD b = w.getLsbD b := by
  simp [hb]

/-- R79: the high half of `(x << 32) | y` is the low half of `x` with the high half of `y` or-ed to it. -/
theorem getLsbD_join_high (u w : Block) {b : Nat} (hb : b < 32) :
    ((u <<< 32) ||| w).getLsbD (32 + b) = (u.getLsbD b || w.getLsbD (32 + b)) := by
  have h64 : 32 + b < 64 := by omega
  rw [BitVec.getLsbD_or, BitVec.getLsbD_shiftLeft]
  simp [h64]

/-- Settles O51: an operation statement is the host's evaluation of its operands' values, and a name reads as it was
last given. -/
theorem hostStatementsNameResults : Obligations.HostStatementsNameResults := by
  unfold Obligations.HostStatementsNameResults
  refine ⟨?operation, ?operationStops, ?compute, ?arithmetic, ?names, ?check⟩
  case operation =>
    intro r v op a k x y ha hk hy
    exact ⟨_, runStmt_operation_drive ha hk hy v op, lookup_nameValue_self v _ r.names, rfl,
      fun u hu => lookup_nameValue_ne hu _ r.names, rfl⟩
  case operationStops =>
    intro r v op a k aFloat kFloat x y ha hk
    refine ⟨fun hy => runStmt_operation_of_too_wide ha hk hy v op aFloat kFloat, fun hy hread => ?_⟩
    rw [runStmt_operation ha hk hy]
    exact runOperation_of_refusal (answerAlone_driveOnly_of_read hread _ _ _) v
  case compute =>
    intro r v e x he
    exact ⟨_, runStmt_compute he v, lookup_nameValue_self v x r.names, fun u hu => lookup_nameValue_ne hu x r.names,
      rfl, rfl⟩
  case arithmetic =>
    intro names x y u w hx hy
    refine ⟨?xor, fun n => ⟨_, ?mask, getLsbD_and_mask u n⟩, fun n => ⟨_, ?shift, BitVec.getLsbD_ushiftRight u n⟩,
      _, ?join, fun b => getLsbD_join_low u w, fun b => getLsbD_join_high u w⟩ <;> simp only [hostValue, hx, hy]
  case names =>
    intro names n v
    exact ⟨rfl, fun h => by simp only [hostValue, h], fun h => by simp only [hostValue, h]⟩
  case check =>
    intro r x y u w b hx hy
    simp only [runStmt, hx, hy]

end Sys2Proof.Machine
end
